-- ==== Sys2Proof/Word.lean ====
section
/-! DEFINITION. The word types of the machine: every value is an unsigned number of a stated width
(00_scope.md R9), and only what the spec treats as bits is a bit vector. -/

namespace Sys2Proof

/-- 8 bits: a general register, a timer, a byte of memory, a pixel byte (10_state.md R20, R28, R36, R37). -/
abbrev Byte := BitVec 8

/-- 16 bits: an opcode, I, PC, a call-stack slot (10_state.md R22, R24, R26; 30_encoding.md R70). -/
abbrev Word := BitVec 16

/-- 12 bits: the address immediate `NNN` (30_encoding.md R71). -/
abbrev Addr12 := BitVec 12

/-- 4 bits: a register number, a row count, a key code (30_encoding.md R71, 40_step_cycle.md R98). -/
abbrev Nibble := BitVec 4

/-- A byte widened to 16 bits with zeros (`zext_16`, 00_scope.md R9). -/
abbrev Byte.toWord (b : Byte) : Word := b.setWidth 16

/-- An address immediate widened to 16 bits with zeros (`zext_16`, 00_scope.md R9). -/
abbrev Addr12.toWord (a : Addr12) : Word := a.setWidth 16

/-- Nibble widened to 8 bits with zeros (40_step_cycle.md R98: `V[KX] <- k`). -/
abbrev Nibble.toByte (k : Nibble) : Byte := k.setWidth 8

/-- The number of the register VF (10_state.md R21). -/
abbrev vf : Nibble := 0xF#4

end Sys2Proof
end

