-- ==== Sys2Proof/Syntax.lean ====
section
/-! DEFINITION. The instruction set: one constructor for each row of spec/opcode_table.json, in the
table's order (30_encoding.md R74), with every operand bit of the opcode as an argument, the ignored
ones too, so that an instruction determines its opcode. -/

namespace Sys2Proof

/-- The 35 instructions. `x`, `y` are register numbers, `nn` a byte, `nnn` an address, `n` a row count
(30_encoding.md R71, R73). -/
inductive Instr where
  /-- 0NNN, SYS: legacy no-op; `nnn` is ignored (49_legacy_sys.md R180). -/
  | sys (nnn : Addr12)
  /-- 00E0, CLS: clear the screen (46_display.md R158). -/
  | cls
  /-- 00EE, RET: return from subroutine (41_flow.md R112). -/
  | ret
  /-- 1NNN, JP: jump (41_flow.md R110). -/
  | jp (nnn : Addr12)
  /-- 2NNN, CALL: call subroutine (41_flow.md R111). -/
  | call (nnn : Addr12)
  /-- 3XNN, SE: skip if `V[x] = nn` (41_flow.md R113). -/
  | seImm (x : Nibble) (nn : Byte)
  /-- 4XNN, SNE: skip if `V[x] ≠ nn` (41_flow.md R114). -/
  | sneImm (x : Nibble) (nn : Byte)
  /-- 5XY0, SE: skip if `V[x] = V[y]` (41_flow.md R115). -/
  | seReg (x y : Nibble)
  /-- 6XNN, LD: load immediate (42_arith_logic.md R121). -/
  | ldImm (x : Nibble) (nn : Byte)
  /-- 7XNN, ADD: add immediate, no flag (42_arith_logic.md R122). -/
  | addImm (x : Nibble) (nn : Byte)
  /-- 8XY0, LD: copy (42_arith_logic.md R123). -/
  | ldReg (x y : Nibble)
  /-- 8XY1, OR (42_arith_logic.md R124). -/
  | orReg (x y : Nibble)
  /-- 8XY2, AND (42_arith_logic.md R125). -/
  | andReg (x y : Nibble)
  /-- 8XY3, XOR (42_arith_logic.md R126). -/
  | xorReg (x y : Nibble)
  /-- 8XY4, ADD with carry flag (42_arith_logic.md R127). -/
  | addReg (x y : Nibble)
  /-- 8XY5, SUB with not-borrow flag (42_arith_logic.md R128). -/
  | subReg (x y : Nibble)
  /-- 8XY6, SHR by one; `y` is ignored (43_shifts.md R135). -/
  | shr (x y : Nibble)
  /-- 8XY7, SUBN with not-borrow flag (42_arith_logic.md R129). -/
  | subnReg (x y : Nibble)
  /-- 8XYE, SHL by one; `y` is ignored (43_shifts.md R136). -/
  | shl (x y : Nibble)
  /-- 9XY0, SNE: skip if `V[x] ≠ V[y]` (41_flow.md R116). -/
  | sneReg (x y : Nibble)
  /-- ANNN, LD I: set I (44_index_memory.md R140). -/
  | ldI (nnn : Addr12)
  /-- BNNN, JP with the offset V0 (44_index_memory.md R141). -/
  | jpV0 (nnn : Addr12)
  /-- CXNN, RND: random byte and `nn` (45_random.md R150). -/
  | rnd (x : Nibble) (nn : Byte)
  /-- DXYN, DRW: draw a sprite of `n` rows (46_display.md R157). -/
  | drw (x y n : Nibble)
  /-- EX9E, SKP: skip if key `V[x]` is pressed (47_input.md R166). -/
  | skp (x : Nibble)
  /-- EXA1, SKNP: skip if key `V[x]` is not pressed (47_input.md R167). -/
  | sknp (x : Nibble)
  /-- FX07, LD from the delay timer (48_timers.md R175). -/
  | ldVxDt (x : Nibble)
  /-- FX0A, LD from the next key press (47_input.md R168). -/
  | ldVxK (x : Nibble)
  /-- FX15, LD to the delay timer (48_timers.md R176). -/
  | ldDtVx (x : Nibble)
  /-- FX18, LD to the sound timer (48_timers.md R177). -/
  | ldStVx (x : Nibble)
  /-- FX1E, ADD to I with overflow flag (44_index_memory.md R142). -/
  | addI (x : Nibble)
  /-- FX29, LD I with a glyph address (44_index_memory.md R143). -/
  | ldFVx (x : Nibble)
  /-- FX33, LD decimal digits to memory at I (44_index_memory.md R144). -/
  | ldBVx (x : Nibble)
  /-- FX55, LD registers V0..V[x] to memory at I (44_index_memory.md R145). -/
  | ldMemVx (x : Nibble)
  /-- FX65, LD registers V0..V[x] from memory at I (44_index_memory.md R146). -/
  | ldVxMem (x : Nibble)
  deriving DecidableEq, Repr

end Sys2Proof
end

