-- ==== Sys2Proof/Decode.lean ====
section
/-! DEFINITION. The decoder, total on any bytes and refusing by name, then the encoder, both written
from the opcode map (30_encoding.md R70-R81), and the host's `decodeTableWord`. -/

namespace Sys2Proof

/-! ## Fields of an opcode (30_encoding.md R71) -/

/-- `F = op[15:12]`, the family. -/
def opF (op : Word) : Nibble := op.extractLsb' 12 4

/-- `X = op[11:8]`. -/
def opX (op : Word) : Nibble := op.extractLsb' 8 4

/-- `Y = op[7:4]`. -/
def opY (op : Word) : Nibble := op.extractLsb' 4 4

/-- `N = op[3:0]`. -/
def opN (op : Word) : Nibble := op.extractLsb' 0 4

/-- `NN = op[7:0]`. -/
def opNN (op : Word) : Byte := op.extractLsb' 0 8

/-- `NNN = op[11:0]`. -/
def opNNN (op : Word) : Addr12 := op.extractLsb' 0 12

/-! ## Decoding -/

/-- Family 0, keyed by the whole opcode (30_encoding.md R76). -/
def decode0 (nnn : Addr12) : Instr :=
  if nnn = 0x0E0#12 then .cls else if nnn = 0x0EE#12 then .ret else .sys nnn

/-- Family 8, keyed by the low nibble (30_encoding.md R77). -/
def decode8 (x y n : Nibble) : Option Instr :=
  match n.toNat with
  | 0x0 => some (.ldReg x y)
  | 0x1 => some (.orReg x y)
  | 0x2 => some (.andReg x y)
  | 0x3 => some (.xorReg x y)
  | 0x4 => some (.addReg x y)
  | 0x5 => some (.subReg x y)
  | 0x6 => some (.shr x y)
  | 0x7 => some (.subnReg x y)
  | 0xE => some (.shl x y)
  | _ => none

/-- Family E, keyed by the low byte (30_encoding.md R78). -/
def decodeE (x : Nibble) (nn : Byte) : Option Instr :=
  if nn = 0x9E#8 then some (.skp x)
  else if nn = 0xA1#8 then some (.sknp x)
  else none

/-- Family F, keyed by the low byte (30_encoding.md R79). -/
def decodeF (x : Nibble) (nn : Byte) : Option Instr :=
  if nn = 0x07#8 then some (.ldVxDt x)
  else if nn = 0x0A#8 then some (.ldVxK x)
  else if nn = 0x15#8 then some (.ldDtVx x)
  else if nn = 0x18#8 then some (.ldStVx x)
  else if nn = 0x1E#8 then some (.addI x)
  else if nn = 0x29#8 then some (.ldFVx x)
  else if nn = 0x33#8 then some (.ldBVx x)
  else if nn = 0x55#8 then some (.ldMemVx x)
  else if nn = 0x65#8 then some (.ldVxMem x)
  else none

/-- Families 5 and 9: only `N = 0` is an instruction (30_encoding.md R80). -/
def decodeN0 (n : Nibble) (i : Instr) : Option Instr :=
  if n = 0x0#4 then some i else none

/-- The instruction of an opcode, or none where the opcode is unknown: the high nibble selects the family
and six families have a second key (30_encoding.md R75-R81, 40_step_cycle.md R94). -/
def decode (op : Word) : Option Instr :=
  match (opF op).toNat with
  | 0x0 => some (decode0 (opNNN op))
  | 0x1 => some (.jp (opNNN op))
  | 0x2 => some (.call (opNNN op))
  | 0x3 => some (.seImm (opX op) (opNN op))
  | 0x4 => some (.sneImm (opX op) (opNN op))
  | 0x5 => decodeN0 (opN op) (.seReg (opX op) (opY op))
  | 0x6 => some (.ldImm (opX op) (opNN op))
  | 0x7 => some (.addImm (opX op) (opNN op))
  | 0x8 => decode8 (opX op) (opY op) (opN op)
  | 0x9 => decodeN0 (opN op) (.sneReg (opX op) (opY op))
  | 0xA => some (.ldI (opNNN op))
  | 0xB => some (.jpV0 (opNNN op))
  | 0xC => some (.rnd (opX op) (opNN op))
  | 0xD => some (.drw (opX op) (opY op) (opN op))
  | 0xE => decodeE (opX op) (opNN op)
  | _ => decodeF (opX op) (opNN op)

/-- Why the decoder refuses a byte string. -/
inductive DecodeError where
  /-- Fewer than the two bytes of an instruction (30_encoding.md R70). -/
  | truncated
  /-- The opcode matches no row of the map (30_encoding.md R81). -/
  | unknownOpcode (op : Word)
  deriving DecidableEq, Repr

/-- An opcode from its two bytes, the first the high one (20_memory.md R55). -/
def opcodeOfBytes (hi lo : Byte) : Word := hi ++ lo

/-- The first instruction of a byte string and the bytes after it. -/
def decodeBytes : List Byte → Except DecodeError (Instr × List Byte)
  | hi :: lo :: rest =>
    match decode (opcodeOfBytes hi lo) with
    | some i => .ok (i, rest)
    | none => .error (.unknownOpcode (opcodeOfBytes hi lo))
  | _ => .error .truncated

/-! ## Encoding (30_encoding.md R72, R74) -/

/-- Format NNN. -/
def formNNN (f : Nibble) (nnn : Addr12) : Word := f ++ nnn

/-- Formats XNN and XKK. -/
def formXNN (f x : Nibble) (nn : Byte) : Word := f ++ x ++ nn

/-- Formats XYK and XYN. -/
def formXYN (f x y n : Nibble) : Word := f ++ x ++ y ++ n

/-- The opcode of an instruction, every operand bit in its place. -/
def encode : Instr → Word
  | .sys nnn => formNNN 0x0 nnn
  | .cls => 0x00E0#16
  | .ret => 0x00EE#16
  | .jp nnn => formNNN 0x1 nnn
  | .call nnn => formNNN 0x2 nnn
  | .seImm x nn => formXNN 0x3 x nn
  | .sneImm x nn => formXNN 0x4 x nn
  | .seReg x y => formXYN 0x5 x y 0x0
  | .ldImm x nn => formXNN 0x6 x nn
  | .addImm x nn => formXNN 0x7 x nn
  | .ldReg x y => formXYN 0x8 x y 0x0
  | .orReg x y => formXYN 0x8 x y 0x1
  | .andReg x y => formXYN 0x8 x y 0x2
  | .xorReg x y => formXYN 0x8 x y 0x3
  | .addReg x y => formXYN 0x8 x y 0x4
  | .subReg x y => formXYN 0x8 x y 0x5
  | .shr x y => formXYN 0x8 x y 0x6
  | .subnReg x y => formXYN 0x8 x y 0x7
  | .shl x y => formXYN 0x8 x y 0xE
  | .sneReg x y => formXYN 0x9 x y 0x0
  | .ldI nnn => formNNN 0xA nnn
  | .jpV0 nnn => formNNN 0xB nnn
  | .rnd x nn => formXNN 0xC x nn
  | .drw x y n => formXYN 0xD x y n
  | .skp x => formXNN 0xE x 0x9E
  | .sknp x => formXNN 0xE x 0xA1
  | .ldVxDt x => formXNN 0xF x 0x07
  | .ldVxK x => formXNN 0xF x 0x0A
  | .ldDtVx x => formXNN 0xF x 0x15
  | .ldStVx x => formXNN 0xF x 0x18
  | .addI x => formXNN 0xF x 0x1E
  | .ldFVx x => formXNN 0xF x 0x29
  | .ldBVx x => formXNN 0xF x 0x33
  | .ldMemVx x => formXNN 0xF x 0x55
  | .ldVxMem x => formXNN 0xF x 0x65

/-- The high byte of an opcode, stored at the lower address (20_memory.md R55). -/
def opcodeHi (op : Word) : Byte := op.extractLsb' 8 8

/-- The low byte of an opcode (20_memory.md R55). -/
def opcodeLo (op : Word) : Byte := op.extractLsb' 0 8

/-- An instruction as it lies in memory: "exactly 2 bytes (high byte, low byte)" (20_memory.md R55). -/
def encodeBytes (i : Instr) : List Byte := [opcodeHi (encode i), opcodeLo (encode i)]

/-- The opcode that the host numbers as `nbits` bits of `w`; every bit above them is 0. -/
def opcodeOfTable (nbits w : Nat) : Word := BitVec.ofNat 16 (w % 2 ^ nbits)

/-- The instruction the decoder reads from the table's word, laid out as the hardware stores it. -/
def decodeTableWord (nbits w : Nat) : Option Instr :=
  match decodeBytes [opcodeHi (opcodeOfTable nbits w), opcodeLo (opcodeOfTable nbits w)] with
  | .ok (i, _) => some i
  | .error _ => none

end Sys2Proof
end

