-- ==== Sys2Proof/Machine/Params.lean ====
section
/-! DEFINITION. The parameters of the hardware to which the spec gives a default (00_scope.md R7): the
screen's size, the flag value of SHL and the font bytes. -/

namespace Sys2Proof.Machine

/-- `WIDTH`: PRESUMED 64 (00_scope.md R7; 92_eei_decisions.md D19; G11; log 7). -/
def screenWidth : Nat := 64

/-- `HEIGHT`: PRESUMED 32 (00_scope.md R7; 92_eei_decisions.md D19; G11; log 7). -/
def screenHeight : Nat := 32

/-- `SHL_FLAG_NORMALISE`: false, so that SHL leaves 0x00 or 0x80 in VF (43_shifts.md R136;
90_conflicts.md C3; 92_eei_decisions.md D12; log 8). -/
def shlFlagNormalise : Bool := false

/-- The sixteen glyphs, five rows each: PRESUMED (20_memory.md R53; 93_implementation_defined.md G10;
log 6). -/
def glyphs : List (List Byte) :=
  [[0xF0, 0x90, 0x90, 0x90, 0xF0], [0x20, 0x60, 0x20, 0x20, 0x70],
   [0xF0, 0x10, 0xF0, 0x80, 0xF0], [0xF0, 0x10, 0xF0, 0x10, 0xF0]] ++
  [[0x90, 0x90, 0xF0, 0x10, 0x10], [0xF0, 0x80, 0xF0, 0x10, 0xF0],
   [0xF0, 0x80, 0xF0, 0x90, 0xF0], [0xF0, 0x10, 0x20, 0x40, 0x40]] ++
  [[0xF0, 0x90, 0xF0, 0x90, 0xF0], [0xF0, 0x90, 0xF0, 0x10, 0xF0],
   [0xF0, 0x90, 0xF0, 0x90, 0x90], [0xE0, 0x90, 0xE0, 0x90, 0xE0]] ++
  [[0xF0, 0x80, 0x80, 0x80, 0xF0], [0xE0, 0x90, 0x90, 0x90, 0xE0],
   [0xF0, 0x80, 0xF0, 0x80, 0xF0], [0xF0, 0x80, 0xF0, 0x80, 0x80]]

/-- `FONT[0..79]`: glyph `d` starts at `d × 5` (20_memory.md R52). -/
def font : List Byte := glyphs.flatten

end Sys2Proof.Machine
end

