-- ==== Sys2Proof/Config.lean ====
section
/-! DEFINITION. What is fixed for the machine (00_scope.md R6, none of it configurable) and the one free
value the spec leaves OPEN, the random draw. Parameters to which the spec gives a default
(00_scope.md R7) are in Machine/Params.lean. -/

namespace Sys2Proof.Config

/-- `MEM_SIZE`: bytes of memory (00_scope.md R6). -/
def memSize : Nat := 4096

/-- `PROG_BASE`: where LOAD places a program, and the reset value of PC (00_scope.md R6). -/
def progBase : Nat := 0x200

/-- `draw_byte()` of CXNN: draw number `n` is this function at `n`. It has no body, so it can be any
sequence of bytes (45_random.md R150; 92_eei_decisions.md D28; 93_implementation_defined.md U10;
log 3). -/
opaque drawByte : Nat → Byte

end Sys2Proof.Config
end

