-- ==== Sys2Proof/Machine/State.lean ====
section
/-! DEFINITION. The state of the machine as plain data, everything 10_state.md gives it (R20-R42), the
reasons a step can stop, the host's events and the outputs, and the state after reset. -/

namespace Sys2Proof.Machine

/-- The run state `RUN` (10_state.md R29). -/
inductive RunState where
  /-- A STEP executes one opcode. -/
  | running
  /-- FX0A waits for a KEYDOWN; a STEP changes nothing. -/
  | waitingForKey
  /-- After a fault or STOP; only INITIALIZE leaves it. -/
  | halted
  deriving DecidableEq, Repr

/-- The kinds of the hardware's own faults (60_exceptions.md R190). Each is TAKEN: it writes `fault` and
`run`, and the step answers a next state (R196). -/
inductive FaultKind where
  /-- Code 1: the fetched opcode matches no instruction (R191). -/
  | unknownOpcode
  /-- Code 2: `PC > 0xFFE` at the start of a STEP (R192). -/
  | pcOutOfBounds
  /-- Code 3: reserved by the spec, raised by nothing (R193). -/
  | pcNotInteger
  /-- Code 4: 2NNN with all sixteen slots occupied (R194). -/
  | stackOverflow
  /-- Code 5: 00EE with no slot occupied (R195). -/
  | stackUnderflow
  /-- Code 6: a data address above 0xFFF (R197). -/
  | memOutOfBounds
  deriving DecidableEq, Repr

/-- The fault record `(kind, opcode, pc, steps)` (10_state.md R34). -/
structure FaultRecord where
  kind : FaultKind
  /-- The fetched opcode, or none where nothing was fetched. -/
  opcode : Option Word
  /-- PC at the start of the faulting step. -/
  pc : Word
  /-- STEPS at that moment. -/
  steps : Nat
  deriving DecidableEq, Repr

/-- Reasons for the host's outcome `fault`. There is none: every fault of this hardware is taken as a next
state (60_exceptions.md R196), and no rule stops the machine without one, so nothing raises a
`Fault`, which is safe: no behaviour is cut off. -/
inductive Fault where
  deriving DecidableEq, Repr

/-- Reasons for the host's outcome `refused`. -/
inductive Refusal where
  /-- An instruction whose meaning is not written yet, raised by its arm of `exec` alone; no arm raises it
  now. It is safe: the run stops where the hardware goes on. -/
  | notModelled (mnemonic : String)
  deriving DecidableEq, Repr

/-- The events that drive the block (40_step_cycle.md R90). -/
inductive Event where
  /-- INITIALIZE (70_reset_and_hazards.md R220). -/
  | init
  /-- LOAD of a program image (40_step_cycle.md R101). -/
  | load (rom : List Byte)
  /-- STEP (40_step_cycle.md R92, R96). -/
  | step
  /-- TICK (40_step_cycle.md R97). -/
  | tick
  /-- KEYDOWN of a key code (40_step_cycle.md R98). -/
  | keyDown (k : Nibble)
  /-- KEYUP of a key code (40_step_cycle.md R99). -/
  | keyUp (k : Nibble)
  /-- STOP (40_step_cycle.md R100). -/
  | stop
  deriving DecidableEq, Repr

/-- What an event tells the host besides the state it leaves (40_step_cycle.md R97, R103). -/
inductive Output where
  /-- `audio.update(beepRequested)`. -/
  | audioUpdate (beepRequested : Bool)
  /-- `render.update(drawRequested)`. -/
  | renderUpdate (drawRequested : Bool)
  /-- LOAD was refused: the image does not fit (93_implementation_defined.md U13). -/
  | loadRefused
  deriving DecidableEq, Repr

/-- The whole state (10_state.md). `mem` and `fb` list the bytes that differ from what an unlisted address
reads as (Machine/Memory.lean). -/
structure State where
  /-- `V[0..15]`; `V[15]` is VF (R20, R21). -/
  v : Vector Byte 16
  /-- The index register `I` (R22). -/
  i : Word
  /-- `PC` (R24). -/
  pc : Word
  /-- `STACK[0..15]` (R26). -/
  stack : Vector Word 16
  /-- `SP`, the number of occupied slots, 0 to 16 (R27). -/
  sp : Fin 17
  /-- `DT`, the delay timer (R28). -/
  dt : Byte
  /-- `ST`, the sound timer (R28). -/
  st : Byte
  /-- `RUN` (R29). -/
  run : RunState
  /-- `KX`, the register a key-wait will write (R30). -/
  kx : Nibble
  /-- `DRAWF`, the draw flag (R31). -/
  drawf : Bool
  /-- `BEEP`, the audio-request flag (R32). -/
  beep : Bool
  /-- `STEPS`, opcodes executed to completion (R33). -/
  steps : Nat
  /-- `FAULT` (R34). -/
  fault : Option FaultRecord
  /-- `MEM[0..4095]` (R36). -/
  mem : List Host.Cell
  /-- `FB`, the pixel buffer (R37). -/
  fb : List Host.Cell
  /-- `KEYS[0..15]`, true where pressed (R38). -/
  keys : Vector Bool 16
  /-- `LASTKEY` (R38). -/
  lastKey : Option Nibble
  /-- The model's own: how many random bytes have been drawn (45_random.md R150; log 3). -/
  draws : Nat
  deriving DecidableEq, Repr

/-- The machine right after INITIALIZE at power-on (10_state.md R40): memory and the screen list nothing,
since an unlisted address reads as its reset contents. -/
def State.reset : State where
  v := Vector.replicate 16 0
  i := 0
  pc := BitVec.ofNat 16 Config.progBase
  stack := Vector.replicate 16 0
  sp := 0
  dt := 0
  st := 0
  run := .running
  kx := 0
  drawf := false
  beep := false
  steps := 0
  fault := none
  mem := []
  fb := []
  keys := Vector.replicate 16 false
  lastKey := none
  draws := 0

end Sys2Proof.Machine
end

