-- ==== Sys2Proof/Machine/Memory.lean ====
section
/-! DEFINITION. Bytes at addresses, held as a sparse list in one canonical form (log 25): the operations of
that form, then memory and the pixel buffer as two uses of it. -/

namespace Sys2Proof.Machine

/-! ## Sparse bytes: `d a` is what the unlisted address `a` reads as -/

/-- The byte at `a`. -/
def Cells.read (d : Nat → Byte) : List Host.Cell → Nat → Byte
  | [], a => d a
  | c :: rest, a => if c.1 = a then c.2 else Cells.read d rest a

/-- List `b` at `a`, in the place that keeps the addresses rising. -/
def Cells.insert (a : Nat) (b : Byte) : List Host.Cell → List Host.Cell
  | [] => [(a, b)]
  | c :: rest =>
    if a < c.1 then (a, b) :: c :: rest
    else if c.1 = a then (a, b) :: rest
    else c :: Cells.insert a b rest

/-- Store `b` at `a`; storing what an unlisted address reads as removes the entry. -/
def Cells.write (d : Nat → Byte) (m : List Host.Cell) (a : Nat) (b : Byte) : List Host.Cell :=
  if b = d a then m.filter (fun c => c.1 != a) else Cells.insert a b m

/-- The canonical form: addresses below `size` and strictly rising, no entry equal to what an unlisted
address reads as. -/
def Cells.wf (size : Nat) (d : Nat → Byte) : List Host.Cell → Bool
  | [] => true
  | c :: rest =>
    decide (c.1 < size) && c.2 != d c.1 && rest.all (fun e => decide (c.1 < e.1)) && Cells.wf size d rest

/-! ## Memory (20_memory.md) -/

/-- What an unlisted address reads as, the contents after INITIALIZE: the font from 0x000, zeros above it
(20_memory.md R51; 10_state.md R40). -/
def Memory.initial (a : Nat) : Byte := font.getD a 0

/-- The byte of memory at `a`; only asked below `Config.memSize` (20_memory.md R58). -/
def Memory.read (m : List Host.Cell) (a : Nat) : Byte := Cells.read Memory.initial m a

/-- Store one byte (`MemWrite(a, 1, b)` inside memory, 00_scope.md R10). -/
def Memory.write (m : List Host.Cell) (a : Nat) (b : Byte) : List Host.Cell :=
  Cells.write Memory.initial m a b

/-- Store bytes at `a`, `a+1`, ... in that order (20_memory.md R58). -/
def Memory.writeBytes (m : List Host.Cell) (a : Nat) : List Byte → List Host.Cell
  | [] => m
  | b :: rest => Memory.writeBytes (Memory.write m a b) (a + 1) rest

/-- The bytes at `a`, ..., `a+n-1` (20_memory.md R58). -/
def Memory.readBytes (m : List Host.Cell) (a n : Nat) : List Byte :=
  (List.range n).map (fun k => Memory.read m (a + k))

/-- Whether all of `a`, ..., `a+n-1` lie in memory, without wrapping; no access lies nowhere
(20_memory.md R57). -/
def Memory.inRange (a n : Nat) : Bool := n == 0 || decide (a + n ≤ Config.memSize)

/-- The canonical form of memory. -/
def Memory.wf (m : List Host.Cell) : Bool := Cells.wf Config.memSize Memory.initial m

/-! ## The pixel buffer (46_display.md R155, R156) -/

/-- Bytes of `FB`. -/
def Screen.size : Nat := screenWidth * screenHeight

/-- A dark pixel, what every pixel is after INITIALIZE (10_state.md R40). -/
def Screen.dark (_ : Nat) : Byte := 0

/-- The byte `FB[p]`. -/
def Screen.read (f : List Host.Cell) (p : Nat) : Byte := Cells.read Screen.dark f p

/-- Store `FB[p]`. -/
def Screen.write (f : List Host.Cell) (p : Nat) (b : Byte) : List Host.Cell :=
  Cells.write Screen.dark f p b

/-- The index of the pixel in column `x` and row `y`, each coordinate wrapped on its own
(46_display.md R156, R157; 92_eei_decisions.md D18; log 14). -/
def Screen.index (x y : Nat) : Nat := y % screenHeight * screenWidth + x % screenWidth

/-- `clearScreen()`: every byte 0 (46_display.md R155). -/
def Screen.clear : List Host.Cell := []

/-- The canonical form of the pixel buffer, every byte 0 or 1 (10_state.md R37). -/
def Screen.wf (f : List Host.Cell) : Bool :=
  Cells.wf Screen.size Screen.dark f && f.all (fun c => c.2 == 1)

end Sys2Proof.Machine
end

