-- ==== Sys2Proof/Machine/Ops.lean ====
section
/-! DEFINITION. The named operations on the state: reading and writing registers, completing an
instruction, taking a fault, INITIALIZE (the only way out of a fault), and fetching an opcode. -/

namespace Sys2Proof.Machine

/-! ## Registers -/

/-- Read `V[x]` (10_state.md R20). -/
def State.readV (s : State) (x : Nibble) : Byte := s.v[x.toNat]'x.isLt

/-- Write `V[x]` (10_state.md R20). -/
def State.writeV (s : State) (x : Nibble) (b : Byte) : State := { s with v := s.v.set x.toNat b x.isLt }

/-- Write I (10_state.md R22). -/
def State.writeI (s : State) (a : Word) : State := { s with i := a }

/-- Write the delay timer (10_state.md R28). -/
def State.writeDT (s : State) (b : Byte) : State := { s with dt := b }

/-- Write the sound timer; BEEP waits for the next TICK (10_state.md R28, R32). -/
def State.writeST (s : State) (b : Byte) : State := { s with st := b }

/-- Replace memory. -/
def State.writeMem (s : State) (m : List Host.Cell) : State := { s with mem := m }

/-- Replace the pixel buffer. -/
def State.writeFB (s : State) (f : List Host.Cell) : State := { s with fb := f }

/-- Raise the draw flag (10_state.md R31). -/
def State.raiseDraw (s : State) : State := { s with drawf := true }

/-- Enter the key-wait for `V[x]` (10_state.md R29, R30). -/
def State.waitKey (s : State) (x : Nibble) : State := { s with kx := x, run := .waitingForKey }

/-- Take the next random byte: draw number `draws`, and the count goes on (45_random.md R150; log 3). -/
def State.countDraw (s : State) : State := { s with draws := s.draws + 1 }

/-! ## The call stack (10_state.md R26, R27) -/

/-- Push `a`: `STACK[SP] <- a`, then `SP <- SP + 1`; none where all sixteen slots are occupied. -/
def State.push (s : State) (a : Word) : Option State :=
  if h : s.sp.val < 16 then
    some { s with stack := s.stack.set s.sp.val a h, sp := ⟨s.sp.val + 1, Nat.succ_lt_succ h⟩ }
  else none

/-- Pop: `SP <- SP - 1`, then `STACK[SP]`; none where no slot is occupied. The slot keeps its value. -/
def State.pop (s : State) : Option (Word × State) :=
  if h : 0 < s.sp.val then
    some (s.stack[s.sp.val - 1]'(Nat.lt_of_lt_of_le (Nat.sub_lt h Nat.one_pos) (Nat.lt_succ_iff.mp s.sp.isLt)),
      { s with sp := ⟨s.sp.val - 1, Nat.lt_of_le_of_lt (Nat.sub_le _ _) s.sp.isLt⟩ })
  else none

/-! ## The end of an instruction -/

/-- Complete an instruction: `PC <- a`, `STEPS <- STEPS + 1` (40_step_cycle.md R92, R95). -/
def State.complete (s : State) (a : Word) : State := { s with pc := a, steps := s.steps + 1 }

/-- Complete an instruction that goes on to the next opcode: `PC <- (PC0 + 2) mod 65536`
(40_step_cycle.md R95). -/
def State.advance (s : State) : State := s.complete (s.pc + 2)

/-- Complete a skip: `PC0 + 4` where the condition holds, else `PC0 + 2` (10_state.md R25). -/
def State.skipIf (s : State) (c : Bool) : State := s.complete (if c then s.pc + 4 else s.pc + 2)

/-! ## Faults (60_exceptions.md R196) -/

/-- `raise Fault(kind)`: the record is left in FAULT and the machine halts; nothing else changes. -/
def State.raiseFault (s : State) (kind : FaultKind) (opcode : Option Word) : State :=
  { s with
    fault := some { kind := kind, opcode := opcode, pc := s.pc, steps := s.steps }
    run := .halted }

/-- A fault raised by the instruction `i` itself: the record holds its opcode (60_exceptions.md R190;
log 26). -/
def State.raiseBy (s : State) (kind : FaultKind) (i : Instr) : State := s.raiseFault kind (some (encode i))

/-- INITIALIZE: every element at its reset value but the keys, which are the input collaborator's. There is
no return from a fault; this is the only event that leaves Halted (70_reset_and_hazards.md R220;
60_exceptions.md R200; log 3, log 5). -/
def State.initMachine (s : State) : State :=
  { State.reset with keys := s.keys, lastKey := s.lastKey, draws := s.draws }

/-! ## Fetch -/

/-- The opcode at PC, high byte at the lower address; none where PC is above 0xFFE
(20_memory.md R55, R57; 40_step_cycle.md R93). -/
def State.fetch (s : State) : Option Word :=
  if s.pc.toNat ≤ 0xFFE then
    some (opcodeOfBytes (Memory.read s.mem s.pc.toNat) (Memory.read s.mem (s.pc.toNat + 1)))
  else none

/-- The state with an opcode stored where the next STEP fetches, in the run state in which it fetches. With
PC above 0xFFE nothing can be fetched, and nothing is stored (log 2). -/
def State.placeOpcode (s : State) (op : Word) : State :=
  if s.pc.toNat ≤ 0xFFE then
    { s with mem := Memory.writeBytes s.mem s.pc.toNat [opcodeHi op, opcodeLo op], run := .running }
  else s

end Sys2Proof.Machine
end

