-- ==== Sys2Proof/Machine/Flags.lean ====
section
/-! DEFINITION. Every flag computation: VF is the only flag (10_state.md R21), and an instruction that
writes one writes it before its result (42_arith_logic.md R120 b). -/

namespace Sys2Proof.Machine

/-- A flag as the byte 1 or 0. -/
def flagByte (c : Bool) : Byte := if c then 1 else 0

/-- Write VF (10_state.md R21). -/
def State.writeVF (s : State) (f : Byte) : State := s.writeV vf f

/-- Write VF, then the result, so that the result wins where `x` is VF itself
(42_arith_logic.md R120 b, c; 92_eei_decisions.md D10; log 10). -/
def State.writeFlagged (s : State) (x : Nibble) (f r : Byte) : State := (s.writeVF f).writeV x r

/-- 8XY4: 1 if the sum exceeds 255 (42_arith_logic.md R127). -/
def carryFlag (a b : Byte) : Byte := flagByte (decide (255 < a.toNat + b.toNat))

/-- 8XY5, and 8XY7 with its operands exchanged: 0 if `a - b` borrows, else 1 (42_arith_logic.md R128,
R129). -/
def notBorrowFlag (a b : Byte) : Byte := flagByte (!decide (a.toNat < b.toNat))

/-- 8XY6: the bit shifted out, 0 or 1 (43_shifts.md R135). -/
def shrFlag (a : Byte) : Byte := a &&& 0x01

/-- 8XYE: the bit shifted out, as 0x00 or 0x80 unless the parameter normalises it
(43_shifts.md R136; log 8). -/
def shlFlag (a : Byte) : Byte := if shlFlagNormalise then a >>> 7 else a &&& 0x80

/-- FX1E: 1 if the sum leaves the 12-bit address range (44_index_memory.md R142). -/
def indexOverflowFlag (i : Word) (a : Byte) : Byte := flagByte (decide (0x0FFF < i.toNat + a.toNat))

end Sys2Proof.Machine
end

