-- ==== Sys2Proof/Machine/Operands.lean ====
section
/-! DEFINITION. The operand forms: a range of registers, a range of memory at I, a key named by a register
(30_encoding.md R73; 44_index_memory.md R147). A register operand is `State.readV`, an immediate is the
field itself. -/

namespace Sys2Proof.Machine

/-- The values of `V[0]`, ..., `V[x]`, both ends included (44_index_memory.md R145). -/
def State.readVs (s : State) (x : Nibble) : List Byte := s.v.toList.take (x.toNat + 1)

/-- Write `V[k]`, `V[k+1]`, ... with the given bytes, ascending (44_index_memory.md R146). -/
def writeVsFrom (v : Vector Byte 16) (k : Nat) : List Byte → Vector Byte 16
  | [] => v
  | b :: rest => writeVsFrom (v.setIfInBounds k b) (k + 1) rest

/-- Write `V[0]`, `V[1]`, ... with the given bytes (44_index_memory.md R146). -/
def State.writeVs (s : State) (bs : List Byte) : State := { s with v := writeVsFrom s.v 0 bs }

/-- Load `n` bytes from memory at I; none where one of them lies outside memory
(20_memory.md R57; 44_index_memory.md R147). -/
def State.loadI (s : State) (n : Nat) : Option (List Byte) :=
  if Memory.inRange s.i.toNat n then some (Memory.readBytes s.mem s.i.toNat n) else none

/-- Store bytes to memory at I; none where one of them would lie outside memory
(20_memory.md R57; 44_index_memory.md R147). -/
def State.storeI (s : State) (bs : List Byte) : Option State :=
  if Memory.inRange s.i.toNat bs.length then some (s.writeMem (Memory.writeBytes s.mem s.i.toNat bs))
  else none

/-- Whether the key whose code is `b` is pressed; a code above 15 names no key
(47_input.md R166; 92_eei_decisions.md D20; log 15). -/
def State.keyPressed (s : State) (b : Byte) : Bool :=
  if h : b.toNat < 16 then s.keys[b.toNat] else false

/-- The three decimal digits of a byte, hundreds first (44_index_memory.md R144). -/
def bcdDigits (a : Byte) : List Byte :=
  [BitVec.ofNat 8 (a.toNat / 100), BitVec.ofNat 8 (a.toNat / 10 % 10), BitVec.ofNat 8 (a.toNat % 10)]

/-- The address of the glyph of a digit: the whole byte times five (44_index_memory.md R143; log 13). -/
def glyphAddress (a : Byte) : Word := a.setWidth 16 * 5

end Sys2Proof.Machine
end

