-- ==== Sys2Proof/Machine/ArithLogic.lean ====
section
/-! DEFINITION. Assignment, arithmetic and logic (42_arith_logic.md R120-R130). The operands are read from
the state the instruction starts in, before anything is written (R120 a). -/

namespace Sys2Proof.Machine

/-- 6XNN (42_arith_logic.md R121). -/
def execLdImm (x : Nibble) (nn : Byte) (s : State) : Host.Outcome State Fault Refusal :=
  .next (s.writeV x nn).advance

/-- 7XNN: no flag (42_arith_logic.md R122). -/
def execAddImm (x : Nibble) (nn : Byte) (s : State) : Host.Outcome State Fault Refusal :=
  .next (s.writeV x (s.readV x + nn)).advance

/-- 8XY0 (42_arith_logic.md R123). -/
def execLdReg (x y : Nibble) (s : State) : Host.Outcome State Fault Refusal :=
  .next (s.writeV x (s.readV y)).advance

/-- 8XY1: VF is not written (42_arith_logic.md R124; log 11). -/
def execOrReg (x y : Nibble) (s : State) : Host.Outcome State Fault Refusal :=
  .next (s.writeV x (s.readV x ||| s.readV y)).advance

/-- 8XY2: VF is not written (42_arith_logic.md R125; log 11). -/
def execAndReg (x y : Nibble) (s : State) : Host.Outcome State Fault Refusal :=
  .next (s.writeV x (s.readV x &&& s.readV y)).advance

/-- 8XY3: VF is not written (42_arith_logic.md R126; log 11). -/
def execXorReg (x y : Nibble) (s : State) : Host.Outcome State Fault Refusal :=
  .next (s.writeV x (s.readV x ^^^ s.readV y)).advance

/-- 8XY4 (42_arith_logic.md R127). -/
def execAddReg (x y : Nibble) (s : State) : Host.Outcome State Fault Refusal :=
  .next (s.writeFlagged x (carryFlag (s.readV x) (s.readV y)) (s.readV x + s.readV y)).advance

/-- 8XY5 (42_arith_logic.md R128). -/
def execSubReg (x y : Nibble) (s : State) : Host.Outcome State Fault Refusal :=
  .next (s.writeFlagged x (notBorrowFlag (s.readV x) (s.readV y)) (s.readV x - s.readV y)).advance

/-- 8XY7 (42_arith_logic.md R129; log 24). -/
def execSubnReg (x y : Nibble) (s : State) : Host.Outcome State Fault Refusal :=
  .next (s.writeFlagged x (notBorrowFlag (s.readV y) (s.readV x)) (s.readV y - s.readV x)).advance

end Sys2Proof.Machine
end

