-- ==== Sys2Proof/Machine/Display.lean ====
section
/-! DEFINITION. Display instructions (46_display.md R155-R160; log 7, log 14). -/

namespace Sys2Proof.Machine

/-- Drawing so far: whether a lit pixel was erased, and the pixel buffer. -/
abbrev Drawing := Bool × List Host.Cell

/-- XOR a lit sprite bit into one pixel; a lit pixel is erased and noted (46_display.md R157). -/
def plot (x y : Nat) (d : Drawing) : Drawing :=
  (d.1 || Screen.read d.2 (Screen.index x y) == 1,
    Screen.write d.2 (Screen.index x y) (Screen.read d.2 (Screen.index x y) ^^^ 1))

/-- One sprite row at row `y` of the screen, columns ascending; bit 7 is the leftmost pixel
(46_display.md R156, R157). -/
def drawRow (x0 y : Nat) (row : Byte) (d : Drawing) : Drawing :=
  (List.range 8).foldl (fun e c => if row.getLsbD (7 - c) then plot (x0 + c) y e else e) d

/-- The sprite's rows from row `y` of the screen down (46_display.md R157). -/
def drawRows (x0 y : Nat) : List Byte → Drawing → Drawing
  | [], d => d
  | row :: rest, d => drawRows x0 (y + 1) rest (drawRow x0 y row d)

/-- DXYN: the coordinates are latched, VF and DRAWF are written on every execution
(46_display.md R157). -/
def execDrw (x y n : Nibble) (s : State) : Host.Outcome State Fault Refusal :=
  match s.loadI n.toNat with
  | some rows =>
    let d := drawRows (s.readV x).toNat (s.readV y).toNat rows (false, s.fb)
    .next (((s.writeVF (flagByte d.1)).writeFB d.2).raiseDraw).advance
  | none => .next (s.raiseBy .memOutOfBounds (.drw x y n))

/-- 00E0: DRAWF is left unchanged (46_display.md R158; log 22). -/
def execCls (s : State) : Host.Outcome State Fault Refusal :=
  .next (s.writeFB Screen.clear).advance

end Sys2Proof.Machine
end

