-- ==== Sys2Proof/Machine/Flow.lean ====
section
/-! DEFINITION. Flow instructions (41_flow.md R110-R117): JP, CALL, RET, and the skips on registers. -/

namespace Sys2Proof.Machine

/-- 1NNN (41_flow.md R110). -/
def execJp (nnn : Addr12) (s : State) : Host.Outcome State Fault Refusal :=
  .next (s.complete (nnn.setWidth 16))

/-- 2NNN: the address pushed is the CALL's own (41_flow.md R111; log 18). -/
def execCall (nnn : Addr12) (s : State) : Host.Outcome State Fault Refusal :=
  match s.push s.pc with
  | some t => .next (t.complete (nnn.setWidth 16))
  | none => .next (s.raiseBy .stackOverflow (.call nnn))

/-- 00EE (41_flow.md R112; log 18). -/
def execRet (s : State) : Host.Outcome State Fault Refusal :=
  match s.pop with
  | some (a, t) => .next (t.complete (a + 2))
  | none => .next (s.raiseBy .stackUnderflow .ret)

/-- 3XNN (41_flow.md R113). -/
def execSeImm (x : Nibble) (nn : Byte) (s : State) : Host.Outcome State Fault Refusal :=
  .next (s.skipIf (s.readV x == nn))

/-- 4XNN (41_flow.md R114; log 24). -/
def execSneImm (x : Nibble) (nn : Byte) (s : State) : Host.Outcome State Fault Refusal :=
  .next (s.skipIf (s.readV x != nn))

/-- 5XY0 (41_flow.md R115; log 24). -/
def execSeReg (x y : Nibble) (s : State) : Host.Outcome State Fault Refusal :=
  .next (s.skipIf (s.readV x == s.readV y))

/-- 9XY0 (41_flow.md R116; log 24). -/
def execSneReg (x y : Nibble) (s : State) : Host.Outcome State Fault Refusal :=
  .next (s.skipIf (s.readV x != s.readV y))

end Sys2Proof.Machine
end

