-- ==== Sys2Proof/Machine/IndexMemory.lean ====
section
/-! DEFINITION. The index register and memory (44_index_memory.md R140-R147). An instruction that moves a
range checks all of it first and raises MemOutOfBounds with nothing moved (20_memory.md R57). -/

namespace Sys2Proof.Machine

/-- ANNN (44_index_memory.md R140). -/
def execLdI (nnn : Addr12) (s : State) : Host.Outcome State Fault Refusal :=
  .next (s.writeI (nnn.setWidth 16)).advance

/-- BNNN: the sum is not wrapped to 12 bits (44_index_memory.md R141; log 24). -/
def execJpV0 (nnn : Addr12) (s : State) : Host.Outcome State Fault Refusal :=
  .next (s.complete (nnn.setWidth 16 + (s.readV 0).setWidth 16))

/-- FX1E: VF first, then I; `V[x]` is latched (44_index_memory.md R142; log 12). -/
def execAddI (x : Nibble) (s : State) : Host.Outcome State Fault Refusal :=
  .next ((s.writeVF (indexOverflowFlag s.i (s.readV x))).writeI (s.i + (s.readV x).setWidth 16)).advance

/-- FX29 (44_index_memory.md R143; log 13). -/
def execLdFVx (x : Nibble) (s : State) : Host.Outcome State Fault Refusal :=
  .next (s.writeI (glyphAddress (s.readV x))).advance

/-- FX33 (44_index_memory.md R144). -/
def execLdBVx (x : Nibble) (s : State) : Host.Outcome State Fault Refusal :=
  match s.storeI (bcdDigits (s.readV x)) with
  | some t => .next t.advance
  | none => .next (s.raiseBy .memOutOfBounds (.ldBVx x))

/-- FX55: I is not changed (44_index_memory.md R145; log 13). -/
def execLdMemVx (x : Nibble) (s : State) : Host.Outcome State Fault Refusal :=
  match s.storeI (s.readVs x) with
  | some t => .next t.advance
  | none => .next (s.raiseBy .memOutOfBounds (.ldMemVx x))

/-- FX65: I is not changed (44_index_memory.md R146; log 13). -/
def execLdVxMem (x : Nibble) (s : State) : Host.Outcome State Fault Refusal :=
  match s.loadI (x.toNat + 1) with
  | some bs => .next (s.writeVs bs).advance
  | none => .next (s.raiseBy .memOutOfBounds (.ldVxMem x))

end Sys2Proof.Machine
end

