-- ==== Sys2Proof/Machine/Input.lean ====
section
/-! DEFINITION. Input instructions (47_input.md R165-R169). -/

namespace Sys2Proof.Machine

/-- EX9E (47_input.md R166; log 15). -/
def execSkp (x : Nibble) (s : State) : Host.Outcome State Fault Refusal :=
  .next (s.skipIf (s.keyPressed (s.readV x)))

/-- EXA1 (47_input.md R167; log 15). -/
def execSknp (x : Nibble) (s : State) : Host.Outcome State Fault Refusal :=
  .next (s.skipIf (!s.keyPressed (s.readV x)))

/-- FX0A: the wait begins and PC goes on now; KEYDOWN writes the register (47_input.md R168; log 16). -/
def execLdVxK (x : Nibble) (s : State) : Host.Outcome State Fault Refusal :=
  .next (s.waitKey x).advance

end Sys2Proof.Machine
end

