-- ==== Sys2Proof/Machine/Legacy.lean ====
section
/-! DEFINITION. The legacy machine call (49_legacy_sys.md R180). -/

namespace Sys2Proof.Machine

/-- 0NNN: only PC (and STEPS) advance (49_legacy_sys.md R180). -/
def execSys (_nnn : Addr12) (s : State) : Host.Outcome State Fault Refusal :=
  .next s.advance

end Sys2Proof.Machine
end

