-- ==== Sys2Proof/Machine/Random.lean ====
section
/-! DEFINITION. The random instruction (45_random.md R150). -/

namespace Sys2Proof.Machine

/-- CXNN: a free byte, fresh at every execution, masked by the immediate (45_random.md R150; log 3). -/
def execRnd (x : Nibble) (nn : Byte) (s : State) : Host.Outcome State Fault Refusal :=
  .next (s.countDraw.writeV x (Config.drawByte s.draws &&& nn)).advance

end Sys2Proof.Machine
end

