-- ==== Sys2Proof/Machine/Shifts.lean ====
section
/-! DEFINITION. Shifts of `V[x]` in place by one bit; the `y` field is ignored (43_shifts.md R135, R136;
92_eei_decisions.md D11; log 9). -/

namespace Sys2Proof.Machine

/-- 8XY6 (43_shifts.md R135). -/
def execShr (x _y : Nibble) (s : State) : Host.Outcome State Fault Refusal :=
  .next (s.writeFlagged x (shrFlag (s.readV x)) (s.readV x >>> 1)).advance

/-- 8XYE (43_shifts.md R136). -/
def execShl (x _y : Nibble) (s : State) : Host.Outcome State Fault Refusal :=
  .next (s.writeFlagged x (shlFlag (s.readV x)) (s.readV x <<< 1)).advance

end Sys2Proof.Machine
end

