-- ==== Sys2Proof/Machine/Timers.lean ====
section
/-! DEFINITION. Timer instructions (48_timers.md R175-R177; log 24). -/

namespace Sys2Proof.Machine

/-- FX07 (48_timers.md R175). -/
def execLdVxDt (x : Nibble) (s : State) : Host.Outcome State Fault Refusal :=
  .next (s.writeV x s.dt).advance

/-- FX15 (48_timers.md R176). -/
def execLdDtVx (x : Nibble) (s : State) : Host.Outcome State Fault Refusal :=
  .next (s.writeDT (s.readV x)).advance

/-- FX18 (48_timers.md R177). -/
def execLdStVx (x : Nibble) (s : State) : Host.Outcome State Fault Refusal :=
  .next (s.writeST (s.readV x)).advance

end Sys2Proof.Machine
end

