-- ==== Sys2Proof/Machine/Cycle.lean ====
section
/-! DEFINITION. The step cycle (40_step_cycle.md R92-R96). -/

namespace Sys2Proof.Machine

/-- Decode a fetched opcode and execute it; an unknown one raises UnknownOpcode
(40_step_cycle.md R92, lines 3 to 5; 60_exceptions.md R191). -/
def runOpcode (op : Word) (s : State) : Host.Outcome State Fault Refusal :=
  match decode op with
  | some i => exec i s
  | none => .next (s.raiseFault .unknownOpcode (some op))

/-- One STEP. In Running: fetch, or PcOutOfBounds, then the opcode; in WaitingForKey and Halted nothing
changes (40_step_cycle.md R92, R96; 60_exceptions.md R192, R198). -/
def stepCycle (s : State) : Host.Outcome State Fault Refusal :=
  match s.run with
  | .running =>
    match s.fetch with
    | some op => runOpcode op s
    | none => .next (s.raiseFault .pcOutOfBounds none)
  | .waitingForKey => .next s
  | .halted => .next s

end Sys2Proof.Machine
end

