-- ==== Sys2Proof/Machine/Step.lean ====
section
/-! DEFINITION. The machine's step, which is the STEP event (40_step_cycle.md R90; log 1), and the host's
way to place one instruction under it. -/

namespace Sys2Proof.Machine

/-- One STEP event. -/
def step (s : State) : Host.Outcome State Fault Refusal := stepCycle s

/-- `s` with the instruction whose bits are `w` stored where `step` fetches next (log 2). -/
def State.withFetchWord (s : State) (nbits w : Nat) : State := s.placeOpcode (opcodeOfTable nbits w)

end Sys2Proof.Machine
end

