-- ==== Sys2Proof/Machine/Events.lean ====
section
/-! DEFINITION. The seven events that drive the block, and a schedule of them (40_step_cycle.md R90-R104;
log 1). -/

namespace Sys2Proof.Machine

/-- A timer's countdown: toward 0, never below (10_state.md R28). -/
def countDown (b : Byte) : Byte := if b = 0 then 0 else b - 1

/-- TICK outside Halted: both timers, then BEEP from the new ST; DRAWF is handed over and cleared
(40_step_cycle.md R97). -/
def State.tickTimers (s : State) : State :=
  { s with dt := countDown s.dt, st := countDown s.st, beep := countDown s.st != 0, drawf := false }

/-- What a TICK outside Halted outputs, in this order (40_step_cycle.md R97, lines 4 and 5). -/
def State.tickOutputs (s : State) : List Output :=
  [.audioUpdate s.tickTimers.beep, .renderUpdate s.drawf]

/-- TICK; in Halted it changes and outputs nothing (40_step_cycle.md R97; log 22). -/
def onTick (s : State) : State × List Output :=
  match s.run with
  | .running => (s.tickTimers, s.tickOutputs)
  | .waitingForKey => (s.tickTimers, s.tickOutputs)
  | .halted => (s, [])

/-- The input collaborator's part of a key press (40_step_cycle.md R98, lines 1 and 2). -/
def State.pressKey (s : State) (k : Nibble) : State :=
  { s with keys := s.keys.set k.toNat true k.isLt, lastKey := some k }

/-- The end of a key-wait: the awaited register takes the code (40_step_cycle.md R98, line 3). -/
def State.endWait (s : State) (k : Nibble) : State :=
  { s.writeV s.kx (k.setWidth 8) with run := .running }

/-- KEYDOWN (40_step_cycle.md R98; log 16). -/
def onKeyDown (k : Nibble) (s : State) : State :=
  match s.run with
  | .waitingForKey => (s.pressKey k).endWait k
  | .running => s.pressKey k
  | .halted => s.pressKey k

/-- KEYUP (40_step_cycle.md R99). -/
def onKeyUp (k : Nibble) (s : State) : State := { s with keys := s.keys.set k.toNat false k.isLt }

/-- STOP: Halted with FAULT unchanged (40_step_cycle.md R100; log 22). -/
def onStop (s : State) : State := { s with run := .halted }

/-- Whether a program image fits from 0x200 up (20_memory.md R54). -/
def imageFits (rom : List Byte) : Bool := decide (Config.progBase + rom.length ≤ Config.memSize)

/-- Copy a program image to 0x200 up (20_memory.md R54; 40_step_cycle.md R101). -/
def State.copyImage (s : State) (rom : List Byte) : State :=
  s.writeMem (Memory.writeBytes s.mem Config.progBase rom)

/-- LOAD, in every run state: the image is copied; one that does not fit is refused with no change
(40_step_cycle.md R101; 92_eei_decisions.md D27; log 23). -/
def onLoad (rom : List Byte) (s : State) : State × List Output :=
  if imageFits rom then (s.copyImage rom, []) else (s, [.loadRefused])

/-- One event: the state it leaves and what it tells the host (40_step_cycle.md R90, R103). -/
def handle (e : Event) (s : State) : Host.Outcome (State × List Output) Fault Refusal :=
  match e with
  | .init => .next (s.initMachine, [])
  | .load rom => .next (onLoad rom s)
  | .step =>
    match step s with
    | .next t => .next (t, [])
    | .fault r => .fault r
    | .refused r => .refused r
  | .tick => .next (onTick s)
  | .keyDown k => .next (onKeyDown k s, [])
  | .keyUp k => .next (onKeyUp k s, [])
  | .stop => .next (onStop s, [])

/-- A schedule: events one after another, each atomic, with everything they told the host
(40_step_cycle.md R90, R104). -/
def runEvents : List Event → State → Host.Outcome (State × List Output) Fault Refusal
  | [], s => .next (s, [])
  | e :: rest, s =>
    match handle e s with
    | .next (t, out) =>
      match runEvents rest t with
      | .next (u, more) => .next (u, out ++ more)
      | .fault r => .fault r
      | .refused r => .refused r
    | .fault r => .fault r
    | .refused r => .refused r

end Sys2Proof.Machine
end

