-- ==== Sys2Proof/Safety.lean ====
section
/-! DEFINITION. The terms claims are stated in: the invariant of a good state, the rows of the opcode map,
and what each instruction may write (10_state.md R23), each read from the spec and not from the meanings. -/

namespace Sys2Proof

open Sys2Proof.Machine

/-! ## The invariant -/

/-- FAULT and RUN agree, and the record is that of the step that halted the machine: nothing has moved since
(60_exceptions.md R190, R193, R196, R200, R210; 10_state.md R34). -/
def FaultAgrees (s : State) : Prop :=
  ∀ r, s.fault = some r →
    s.run = .halted ∧ r.pc = s.pc ∧ r.steps = s.steps ∧ r.kind ≠ .pcNotInteger ∧
      (r.opcode = none ↔ r.kind = .pcOutOfBounds)

/-- Every occupied slot holds the address of a CALL that was fetched (10_state.md R25, R26). -/
def StackHoldsFetched (s : State) : Prop :=
  ∀ j : Fin 16, j.val < s.sp.val → s.stack[j].toNat ≤ 0xFFE

/-- What holds in every state a run can reach: memory and the pixel buffer in canonical form (the model's own
form, log 25), pixels 0 or 1 (10_state.md R37, decision D19, log 7), PC at most 0x10FE (an inference R25 marks as its
own), stack slots and FAULT as above. -/
structure Inv (s : State) : Prop where
  mem : Memory.wf s.mem = true
  fb : Screen.wf s.fb = true
  pc : s.pc.toNat ≤ 0x10FE
  stack : StackHoldsFetched s
  fault : FaultAgrees s

/-! ## The opcode map (30_encoding.md R74) -/

/-- A row of the opcode map: `op` is the instruction iff `op & mask = pattern`. -/
structure OpcodeRow where
  number : Nat
  mask : Word
  pattern : Word
  deriving DecidableEq, Repr

/-- The row of an instruction, as R74 prints it. -/
def Instr.opcodeRow : Instr → OpcodeRow
  | .sys _ => ⟨1, 0xF000, 0x0000⟩
  | .cls => ⟨2, 0xFFFF, 0x00E0⟩
  | .ret => ⟨3, 0xFFFF, 0x00EE⟩
  | .jp _ => ⟨4, 0xF000, 0x1000⟩
  | .call _ => ⟨5, 0xF000, 0x2000⟩
  | .seImm _ _ => ⟨6, 0xF000, 0x3000⟩
  | .sneImm _ _ => ⟨7, 0xF000, 0x4000⟩
  | .seReg _ _ => ⟨8, 0xF00F, 0x5000⟩
  | .ldImm _ _ => ⟨9, 0xF000, 0x6000⟩
  | .addImm _ _ => ⟨10, 0xF000, 0x7000⟩
  | .ldReg _ _ => ⟨11, 0xF00F, 0x8000⟩
  | .orReg _ _ => ⟨12, 0xF00F, 0x8001⟩
  | .andReg _ _ => ⟨13, 0xF00F, 0x8002⟩
  | .xorReg _ _ => ⟨14, 0xF00F, 0x8003⟩
  | .addReg _ _ => ⟨15, 0xF00F, 0x8004⟩
  | .subReg _ _ => ⟨16, 0xF00F, 0x8005⟩
  | .shr _ _ => ⟨17, 0xF00F, 0x8006⟩
  | .subnReg _ _ => ⟨18, 0xF00F, 0x8007⟩
  | .shl _ _ => ⟨19, 0xF00F, 0x800E⟩
  | .sneReg _ _ => ⟨20, 0xF00F, 0x9000⟩
  | .ldI _ => ⟨21, 0xF000, 0xA000⟩
  | .jpV0 _ => ⟨22, 0xF000, 0xB000⟩
  | .rnd _ _ => ⟨23, 0xF000, 0xC000⟩
  | .drw _ _ _ => ⟨24, 0xF000, 0xD000⟩
  | .skp _ => ⟨25, 0xF0FF, 0xE09E⟩
  | .sknp _ => ⟨26, 0xF0FF, 0xE0A1⟩
  | .ldVxDt _ => ⟨27, 0xF0FF, 0xF007⟩
  | .ldVxK _ => ⟨28, 0xF0FF, 0xF00A⟩
  | .ldDtVx _ => ⟨29, 0xF0FF, 0xF015⟩
  | .ldStVx _ => ⟨30, 0xF0FF, 0xF018⟩
  | .addI _ => ⟨31, 0xF0FF, 0xF01E⟩
  | .ldFVx _ => ⟨32, 0xF0FF, 0xF029⟩
  | .ldBVx _ => ⟨33, 0xF0FF, 0xF033⟩
  | .ldMemVx _ => ⟨34, 0xF0FF, 0xF055⟩
  | .ldVxMem _ => ⟨35, 0xF0FF, 0xF065⟩

/-- The opcode fits the row. -/
def OpcodeRow.fits (r : OpcodeRow) (op : Word) : Prop := op &&& r.mask = r.pattern

/-! ## What an instruction may write (10_state.md R23) -/

/-- The general registers the instruction may write. -/
def Instr.mayWriteV : Instr → Nibble → Prop
  | .sys _, _ | .cls, _ | .ret, _ | .jp _, _ | .call _, _ | .jpV0 _, _ | .ldI _, _ => False
  | .seImm _ _, _ | .sneImm _ _, _ | .seReg _ _, _ | .sneReg _ _, _ | .skp _, _ | .sknp _, _ => False
  | .ldVxK _, _ | .ldDtVx _, _ | .ldStVx _, _ | .ldFVx _, _ | .ldBVx _, _ | .ldMemVx _, _ => False
  | .ldImm x _, r | .addImm x _, r | .rnd x _, r | .ldVxDt x, r => r = x
  | .ldReg x _, r | .orReg x _, r | .andReg x _, r | .xorReg x _, r => r = x
  | .addReg x _, r | .subReg x _, r | .subnReg x _, r | .shr x _, r | .shl x _, r => r = x ∨ r = vf
  | .addI _, r | .drw _ _ _, r => r = vf
  | .ldVxMem x, r => r.toNat ≤ x.toNat

/-- The addresses of memory the instruction may store to, from the state it starts in. -/
def Instr.mayStore (s : State) : Instr → Nat → Prop
  | .ldBVx _, a => s.i.toNat ≤ a ∧ a ≤ s.i.toNat + 2
  | .ldMemVx x, a => s.i.toNat ≤ a ∧ a ≤ s.i.toNat + x.toNat
  | .sys _, _ | .cls, _ | .ret, _ | .jp _, _ | .call _, _ | .jpV0 _, _ | .ldI _, _ => False
  | .seImm _ _, _ | .sneImm _ _, _ | .seReg _ _, _ | .sneReg _ _, _ | .skp _, _ | .sknp _, _ => False
  | .ldImm _ _, _ | .addImm _ _, _ | .rnd _ _, _ | .ldVxDt _, _ | .ldVxK _, _ => False
  | .ldReg _ _, _ | .orReg _ _, _ | .andReg _ _, _ | .xorReg _ _, _ => False
  | .addReg _ _, _ | .subReg _ _, _ | .subnReg _ _, _ | .shr _ _, _ | .shl _ _, _ => False
  | .ldDtVx _, _ | .ldStVx _, _ | .addI _, _ | .ldFVx _, _ | .drw _ _ _, _ | .ldVxMem _, _ => False

/-- The ten instructions that can leave PC elsewhere than `PC0 + 2` (41_flow.md R117). -/
def Instr.mayDivert : Instr → Prop
  | .jp _ | .call _ | .ret | .jpV0 _ => True
  | .seImm _ _ | .sneImm _ _ | .seReg _ _ | .sneReg _ _ | .skp _ | .sknp _ => True
  | .sys _ | .cls | .ldImm _ _ | .addImm _ _ | .ldReg _ _ | .orReg _ _ | .andReg _ _ | .xorReg _ _ => False
  | .addReg _ _ | .subReg _ _ | .subnReg _ _ | .shr _ _ | .shl _ _ | .ldI _ | .rnd _ _ | .drw _ _ _ => False
  | .ldVxDt _ | .ldVxK _ | .ldDtVx _ | .ldStVx _ | .addI _ | .ldFVx _ | .ldBVx _ => False
  | .ldMemVx _ | .ldVxMem _ => False

/-! ## Shapes of a next state -/

/-- `t` is `s` after a completed instruction that went on at `a` and wrote nothing else but, perhaps, general
registers: I, the stack, the timers, RUN, KX, the flags, FAULT, memory, the screen and the keys are as they were. -/
def CompletedAt (s t : State) (a : Word) : Prop :=
  t = { s with v := t.v, pc := a, steps := s.steps + 1 }

/-- No general register differs but those in `xs`. -/
def KeepsVBut (s t : State) (xs : List Nibble) : Prop := ∀ r, r ∉ xs → t.readV r = s.readV r

/-- `t` is `s` with the given fault taken (60_exceptions.md R196). -/
def FaultTaken (s t : State) (kind : FaultKind) (opcode : Option Word) : Prop :=
  t = { s with fault := some ⟨kind, opcode, s.pc, s.steps⟩, run := .halted }

/-- The pixel in column `px` and row `py` lies under a 1 bit of the sprite of `n` rows at I, drawn at
(`x0`, `y0`) and wrapped at the edges (46_display.md R157). -/
def SpriteCovers (s : State) (x0 y0 n px py : Nat) : Prop :=
  ∃ r, r < n ∧ ∃ c, c < 8 ∧ (Memory.read s.mem (s.i.toNat + r)).getLsbD (7 - c) = true ∧
    px = (x0 + c) % screenWidth ∧ py = (y0 + r) % screenHeight

/-- The byte of the pixel in column `px` and row `py` (46_display.md R156). -/
def pixel (s : State) (px py : Nat) : Byte := Screen.read s.fb (py * screenWidth + px)

/-- `t` is `s` with a program image copied to 0x200 up, and nothing else changed (40_step_cycle.md R101). -/
def ImageCopied (s t : State) (rom : List Byte) : Prop :=
  (∀ k, (h : k < rom.length) → Memory.read t.mem (0x200 + k) = rom[k]) ∧
    (∀ a, a < 0x200 ∨ 0x200 + rom.length ≤ a → Memory.read t.mem a = Memory.read s.mem a) ∧
    t = { s with mem := t.mem }

/-- The key whose code is `b` exists and is pressed (47_input.md R166). -/
def KeyIsPressed (s : State) (b : Byte) : Prop := ∃ k : Fin 16, k.val = b.toNat ∧ s.keys[k] = true

end Sys2Proof
end

