-- ==== Sys2Proof/Certificates/Slice0/Obligations.lean ====
section
/-! DEFINITION. The statements for the provers, from the numbered rules of spec/. A statement that rests on a
decision of the spec (D<n> of 92_eei_decisions.md), on its general knowledge (G<n> of
93_implementation_defined.md) or on a choice of the model (log <n>) says so. Two decisions stand behind many and
are named here: that STEPS rises by one with a completed opcode and not with a fault or an idle STEP is D22, and
that a fault changes nothing but RUN and FAULT is D34. -/

open Sys2Proof Sys2Proof.Machine

/-! ## Encoding -/

/-- 30_encoding.md R72, R74; 95_test_vectors.md S10: the bytes of a well-formed instruction, whatever
follows them, decode to it and leave the rest. -/
def Obligations.EncodedBytesDecodeBack : Prop :=
  ∀ (i : Instr) (rest : List Byte), i.wellFormed = true →
    decodeBytes (encodeBytes i ++ rest) = .ok (i, rest)

/-- 30_encoding.md R81 (every field but the ignored ones is significant, and those are carried): a legal
opcode is the opcode of the one well-formed instruction it decodes to. -/
def Obligations.LegalOpcodeIsReencoded : Prop :=
  ∀ (op : Word) (i : Instr), decode op = some i → i.wellFormed = true ∧ encode i = op

/-- 30_encoding.md R74, 40_step_cycle.md R94: decoding is the map of masks and patterns, 00E0 and 00EE before
0NNN. -/
def Obligations.DecodeFollowsMaskAndMatch : Prop :=
  (∀ (op : Word) (i : Instr), decode op = some i → i.opcodeRow.fits op) ∧
    ∀ (op : Word) (j : Instr), j.opcodeRow.fits op →
      ∃ i, decode op = some i ∧
        ((op ≠ 0x00E0 ∧ op ≠ 0x00EE → i.opcodeRow = j.opcodeRow) ∧
          (op = 0x00E0 → i = .cls) ∧ (op = 0x00EE → i = .ret))

/-- 30_encoding.md R76-R81; families 5 and 9 by decision D9: which opcodes are unknown, by the digits of the
opcode as a number. -/
def Obligations.UnknownOpcodesByFamily : Prop :=
  ∀ op : Word, decode op = none ↔
    ((op.toNat / 4096 = 5 ∨ op.toNat / 4096 = 9) ∧ op.toNat % 16 ≠ 0) ∨
    (op.toNat / 4096 = 8 ∧ op.toNat % 16 ∈ [0x8, 0x9, 0xA, 0xB, 0xC, 0xD, 0xF]) ∨
    (op.toNat / 4096 = 14 ∧ op.toNat % 256 ∉ [0x9E, 0xA1]) ∨
    (op.toNat / 4096 = 15 ∧
      op.toNat % 256 ∉ [0x07, 0x0A, 0x15, 0x18, 0x1E, 0x29, 0x33, 0x55, 0x65])

/-- 30_encoding.md R71, R74, R76; 95_test_vectors.md S1, S2, T182: words written out from the encodings. -/
def Obligations.WorkedWordsDecode : Prop :=
  decode 0x632A = some (.ldImm 3 0x2A) ∧ decode 0x8124 = some (.addReg 1 2) ∧
    decode 0x00E0 = some .cls ∧ decode 0x00EE = some .ret ∧ decode 0x00E1 = some (.sys 0x0E1) ∧
    decode 0x1234 = some (.jp 0x234) ∧ decode 0xD015 = some (.drw 0 1 5) ∧
    decode 0xF30A = some (.ldVxK 3) ∧ decode 0xE1A1 = some (.sknp 1) ∧ decode 0xFFFF = none

/-! ## The step cycle and faults -/

/-- 40_step_cycle.md R92, R93: in Running, a step is the meaning of the instruction at PC, high byte at the
lower address, and nothing is done around it. -/
def Obligations.StepRunsDecodedOpcode : Prop :=
  ∀ (s : State) (i : Instr), s.run = .running → s.pc.toNat ≤ 0xFFE →
    decode (Memory.read s.mem s.pc.toNat ++ Memory.read s.mem (s.pc.toNat + 1)) = some i →
    step s = exec i s

/-- 60_exceptions.md R191, R196 (the kind's name is decision D4): an unknown opcode is taken as a fault whose
record holds it, and nothing else changes. -/
def Obligations.UnknownOpcodeIsTaken : Prop :=
  ∀ (s : State) (op : Word), s.run = .running → s.pc.toNat ≤ 0xFFE →
    op = Memory.read s.mem s.pc.toNat ++ Memory.read s.mem (s.pc.toNat + 1) → decode op = none →
    ∃ t, step s = .next t ∧ FaultTaken s t .unknownOpcode (some op)

/-- 60_exceptions.md R192 (0xFFF by decision D5, the empty opcode field by D25): PC above 0xFFE. -/
def Obligations.PcOutOfBoundsIsTaken : Prop :=
  ∀ s : State, s.run = .running → 0xFFE < s.pc.toNat →
    ∃ t, step s = .next t ∧ FaultTaken s t .pcOutOfBounds none

/-- 40_step_cycle.md R96 (not counting in STEPS is decision D22): outside Running a STEP changes nothing. -/
def Obligations.StepIdlesOutsideRunning : Prop :=
  ∀ s : State, s.run ≠ .running → step s = .next s

/-- 70_reset_and_hazards.md R233, 60_exceptions.md R196, R199 (precision is decision D34): a step always
answers a next state; in Running it completes one opcode or takes one fault. -/
def Obligations.StepCompletesOrFaults : Prop :=
  ∀ s : State, ∃ t, step s = .next t ∧ (s.run ≠ .running → t = s) ∧
    (s.run = .running →
      (t.steps = s.steps + 1 ∧ t.fault = s.fault ∧ t.run ≠ .halted) ∨
        ∃ kind opcode, FaultTaken s t kind opcode)

/-- 60_exceptions.md R197, 20_memory.md R57 (decision D7): FX33, FX55, FX65 and DXYN reaching past 0xFFF
fault with nothing written, N = 0 excepted. -/
def Obligations.DataOutOfBoundsIsTaken : Prop :=
  (∀ (x : Nibble) (s : State), 0xFFF < s.i.toNat + 2 →
    ∃ t, exec (.ldBVx x) s = .next t ∧ FaultTaken s t .memOutOfBounds (some (0xF#4 ++ x ++ 0x33#8))) ∧
  (∀ (x : Nibble) (s : State), 0xFFF < s.i.toNat + x.toNat →
    ∃ t, exec (.ldMemVx x) s = .next t ∧ FaultTaken s t .memOutOfBounds (some (0xF#4 ++ x ++ 0x55#8))) ∧
  (∀ (x : Nibble) (s : State), 0xFFF < s.i.toNat + x.toNat →
    ∃ t, exec (.ldVxMem x) s = .next t ∧ FaultTaken s t .memOutOfBounds (some (0xF#4 ++ x ++ 0x65#8))) ∧
  (∀ (x y n : Nibble) (s : State), 0 < n.toNat → 0xFFF < s.i.toNat + n.toNat - 1 →
    ∃ t, exec (.drw x y n) s = .next t ∧ FaultTaken s t .memOutOfBounds (some (0xD#4 ++ x ++ y ++ n)))

/-! ## The invariant -/

/-- The invariant holds at reset (10_state.md R40; the values of I, DT, ST, RUN, FB there are D1, D2, D26). Inv is
partly the model's: the canonical form of memory and the pixel buffer is a choice of the model (log 25), pixels
being 0 or 1 is decision D19 (log 7), the bound on PC an inference R25 marks as its own, slots D3, the empty opcode
field D25. -/
def Obligations.ResetMeetsInvariant : Prop := Inv State.reset

/-- Every step keeps it: the canonical form of memory and the pixel buffer (no rule of the spec: the model's choice,
log 25), pixels 0 or 1 (10_state.md R37, decision D19, log 7), the bound on PC (an inference R25 marks as its own), the
stack's addresses (R26; slots by decision D3), the fault record (60_exceptions.md R200, R210; its empty opcode field by
D25). -/
def Obligations.StepKeepsInvariant : Prop :=
  ∀ s t : State, Inv s → step s = .next t → Inv t

/-- So does every schedule of events, INITIALIZE and LOAD among them (40_step_cycle.md R90, R104). Behind Inv stand the
same choices: canonical lists log 25, pixels 0 or 1 D19 (log 7), slots D3, the empty opcode field D25, and the bound on PC
that R25 marks as its own inference. -/
def Obligations.ScheduleKeepsInvariant : Prop :=
  ∀ (es : List Event) (s t : State) (out : List Output), Inv s → runEvents es s = .next (t, out) → Inv t

/-! ## What every instruction leaves alone -/

/-- 10_state.md R20, R21, R23: no instruction writes a general register outside its row of the table. -/
def Obligations.RegistersOutsideRowKept : Prop :=
  ∀ (i : Instr) (s t : State) (r : Nibble), exec i s = .next t → ¬ i.mayWriteV r → t.readV r = s.readV r

/-- 20_memory.md R50, R58; 44_index_memory.md R144, R145: no byte of memory changes but those that FX33 and
FX55 store at I. -/
def Obligations.MemoryOutsideStoresKept : Prop :=
  ∀ (i : Instr) (s t : State) (a : Nat), exec i s = .next t → ¬ i.mayStore s a →
    Memory.read t.mem a = Memory.read s.mem a

/-- 10_state.md R22, R26-R34, R38: who writes each special element. I: ANNN, FX1E, FX29. Stack: 2NNN, 00EE.
DT: FX15. ST: FX18. KX: FX0A. DRAWF: DXYN. FB: DXYN, 00E0 (its DRAWF by D31). Draws: CXNN (log 3).
BEEP, KEYS and LASTKEY: none. -/
def Obligations.SpecialStateWriters : Prop :=
  ∀ (i : Instr) (s t : State), exec i s = .next t →
    (t.i ≠ s.i → (∃ nnn, i = .ldI nnn) ∨ (∃ x, i = .addI x) ∨ ∃ x, i = .ldFVx x) ∧
    (t.sp ≠ s.sp ∨ t.stack ≠ s.stack → (∃ nnn, i = .call nnn) ∨ i = .ret) ∧
    (t.stack ≠ s.stack → ∃ nnn, i = .call nnn) ∧
    (t.dt ≠ s.dt → ∃ x, i = .ldDtVx x) ∧ (t.st ≠ s.st → ∃ x, i = .ldStVx x) ∧
    (t.kx ≠ s.kx → ∃ x, i = .ldVxK x) ∧ (t.drawf ≠ s.drawf → ∃ x y n, i = .drw x y n) ∧
    (t.fb ≠ s.fb → i = .cls ∨ ∃ x y n, i = .drw x y n) ∧
    (t.draws ≠ s.draws → ∃ x nn, i = .rnd x nn) ∧
    t.beep = s.beep ∧ t.keys = s.keys ∧ t.lastKey = s.lastKey

/-- 10_state.md R25, R29, R33, R34; 41_flow.md R117: an instruction that raises no fault counts one step,
leaves FAULT alone, changes RUN only if it is FX0A, and goes on at `PC0 + 2` unless it is one of ten; one that
raises a fault leaves PC and STEPS (D22). -/
def Obligations.PcRunAndStepsOfEveryInstruction : Prop :=
  ∀ (i : Instr) (s : State), ∃ t, exec i s = .next t ∧
    ((t.steps = s.steps + 1 ∧ t.fault = s.fault ∧ (¬ i.mayDivert → t.pc = s.pc + 2) ∧
        (t.run ≠ s.run → ∃ x, i = .ldVxK x)) ∨
      ∃ kind, FaultTaken s t kind (some (encode i)))

/-! ## Flow -/

/-- 41_flow.md R110: JP. -/
def Obligations.JumpGoesToTarget : Prop :=
  ∀ (nnn : Addr12) (s : State), decode (0x1#4 ++ nnn) = some (.jp nnn) ∧
    ∃ t, exec (.jp nnn) s = .next t ∧ t.pc.toNat = nnn.toNat ∧ KeepsVBut s t [] ∧ CompletedAt s t t.pc

/-- 41_flow.md R111 (slots and SP by decision D3): CALL with a free slot pushes its own address. -/
def Obligations.CallPushesItsAddress : Prop :=
  ∀ (nnn : Addr12) (s : State) (j : Fin 16), s.sp.val = j.val →
    decode (0x2#4 ++ nnn) = some (.call nnn) ∧
    ∃ t, exec (.call nnn) s = .next t ∧ t.pc.toNat = nnn.toNat ∧ t.sp.val = s.sp.val + 1 ∧
      t.stack[j] = s.pc ∧ (∀ k : Fin 16, k ≠ j → t.stack[k] = s.stack[k]) ∧
      t = { s with stack := t.stack, sp := t.sp, pc := t.pc, steps := s.steps + 1 }

/-- 60_exceptions.md R194 (decision D3): CALL with all sixteen slots occupied. -/
def Obligations.CallOnFullStackIsTaken : Prop :=
  ∀ (nnn : Addr12) (s : State), s.sp.val = 16 →
    ∃ t, exec (.call nnn) s = .next t ∧ FaultTaken s t .stackOverflow (some (0x2#4 ++ nnn))

/-- 41_flow.md R112 (slots and SP by decision D3): RET goes on after the CALL whose address it pops; the slot
keeps its value (10_state.md R26). -/
def Obligations.ReturnGoesPastTheCall : Prop :=
  ∀ (s : State) (j : Fin 16), s.sp.val = j.val + 1 →
    decode 0x00EE = some .ret ∧
    ∃ t, exec .ret s = .next t ∧ t.pc.toNat = (s.stack[j].toNat + 2) % 65536 ∧ t.sp.val = j.val ∧
      t = { s with sp := t.sp, pc := t.pc, steps := s.steps + 1 }

/-- 60_exceptions.md R195 (decision D3): RET with no slot occupied. -/
def Obligations.ReturnOnEmptyStackIsTaken : Prop :=
  ∀ s : State, s.sp.val = 0 → ∃ t, exec .ret s = .next t ∧ FaultTaken s t .stackUnderflow (some 0x00EE)

/-- A CALL and the RET that meets its slot: the pair comes back to the opcode after the CALL, with the stack
pointer as before (41_flow.md R111, R112; decision D3). -/
def Obligations.CallThenReturnComesBack : Prop :=
  ∀ (nnn : Addr12) (s : State), s.sp.val < 16 →
    ∃ t u, exec (.call nnn) s = .next t ∧ exec .ret t = .next u ∧ u.pc = s.pc + 2 ∧ u.sp = s.sp ∧
      u = { s with stack := u.stack, pc := u.pc, steps := s.steps + 2 }

/-- 41_flow.md R113: SE with an immediate. -/
def Obligations.SkipIfEqualImmediate : Prop :=
  ∀ (x : Nibble) (nn : Byte) (s : State), decode (0x3#4 ++ x ++ nn) = some (.seImm x nn) ∧
    ∃ t, exec (.seImm x nn) s = .next t ∧ (s.readV x = nn → t.pc.toNat = (s.pc.toNat + 4) % 65536) ∧
      (s.readV x ≠ nn → t.pc.toNat = (s.pc.toNat + 2) % 65536) ∧ KeepsVBut s t [] ∧ CompletedAt s t t.pc

/-- 41_flow.md R114, R115, R116 (which of them skips on equality is general knowledge G2): the other three
skips on registers. -/
def Obligations.OtherRegisterSkips : Prop :=
  ∀ (x y : Nibble) (nn : Byte) (s : State),
    (decode (0x4#4 ++ x ++ nn) = some (.sneImm x nn) ∧
      ∃ t, exec (.sneImm x nn) s = .next t ∧ (s.readV x ≠ nn → t.pc = s.pc + 4) ∧
        (s.readV x = nn → t.pc = s.pc + 2) ∧ KeepsVBut s t [] ∧ CompletedAt s t t.pc) ∧
    (decode (0x5#4 ++ x ++ y ++ 0x0#4) = some (.seReg x y) ∧
      ∃ t, exec (.seReg x y) s = .next t ∧ (s.readV x = s.readV y → t.pc = s.pc + 4) ∧
        (s.readV x ≠ s.readV y → t.pc = s.pc + 2) ∧ KeepsVBut s t [] ∧ CompletedAt s t t.pc) ∧
    (decode (0x9#4 ++ x ++ y ++ 0x0#4) = some (.sneReg x y) ∧
      ∃ t, exec (.sneReg x y) s = .next t ∧ (s.readV x ≠ s.readV y → t.pc = s.pc + 4) ∧
        (s.readV x = s.readV y → t.pc = s.pc + 2) ∧ KeepsVBut s t [] ∧ CompletedAt s t t.pc)

/-! ## Arithmetic and logic -/

/-- 42_arith_logic.md R121: LD immediate. What STEPS becomes is in PcRunAndStepsOfEveryInstruction. -/
def Obligations.LoadImmediate : Prop :=
  ∀ (x : Nibble) (nn : Byte) (s : State), decode (0x6#4 ++ x ++ nn) = some (.ldImm x nn) ∧
    ∃ t, exec (.ldImm x nn) s = .next t ∧ t.readV x = nn ∧ KeepsVBut s t [x] ∧
      t.pc.toNat = (s.pc.toNat + 2) % 65536 ∧ t = { s with v := t.v, pc := t.pc, steps := t.steps }

/-- 42_arith_logic.md R122: ADD immediate, with no flag; STEPS as for R121. -/
def Obligations.AddImmediateWritesNoFlag : Prop :=
  ∀ (x : Nibble) (nn : Byte) (s : State), decode (0x7#4 ++ x ++ nn) = some (.addImm x nn) ∧
    ∃ t, exec (.addImm x nn) s = .next t ∧
      (t.readV x).toNat = ((s.readV x).toNat + nn.toNat) % 256 ∧ KeepsVBut s t [x] ∧
      t.pc.toNat = (s.pc.toNat + 2) % 65536 ∧ t = { s with v := t.v, pc := t.pc, steps := t.steps }

/-- 42_arith_logic.md R123-R126 (codes by G3, VF unwritten by decision D14): copy, OR, AND and XOR, bit by
bit. -/
def Obligations.CopyAndBitwiseOperations : Prop :=
  ∀ (x y : Nibble) (s : State),
    (∃ t, exec (.ldReg x y) s = .next t ∧ t.readV x = s.readV y ∧ KeepsVBut s t [x] ∧
      CompletedAt s t (s.pc + 2)) ∧
    (∃ t, exec (.orReg x y) s = .next t ∧
      (∀ b, (t.readV x).getLsbD b = ((s.readV x).getLsbD b || (s.readV y).getLsbD b)) ∧
      KeepsVBut s t [x] ∧ CompletedAt s t (s.pc + 2)) ∧
    (∃ t, exec (.andReg x y) s = .next t ∧
      (∀ b, (t.readV x).getLsbD b = ((s.readV x).getLsbD b && (s.readV y).getLsbD b)) ∧
      KeepsVBut s t [x] ∧ CompletedAt s t (s.pc + 2)) ∧
    (∃ t, exec (.xorReg x y) s = .next t ∧
      (∀ b, (t.readV x).getLsbD b = ((s.readV x).getLsbD b ^^ (s.readV y).getLsbD b)) ∧
      KeepsVBut s t [x] ∧ CompletedAt s t (s.pc + 2))

/-- 42_arith_logic.md R127 (the result winning in VF is decision D10): ADD with carry flag. -/
def Obligations.AddSetsCarry : Prop :=
  ∀ (x y : Nibble) (s : State), decode (0x8#4 ++ x ++ y ++ 0x4#4) = some (.addReg x y) ∧
    ∃ t, exec (.addReg x y) s = .next t ∧
      (t.readV x).toNat = ((s.readV x).toNat + (s.readV y).toNat) % 256 ∧
      (x ≠ vf → 255 < (s.readV x).toNat + (s.readV y).toNat → t.readV vf = 1) ∧
      (x ≠ vf → (s.readV x).toNat + (s.readV y).toNat ≤ 255 → t.readV vf = 0) ∧
      KeepsVBut s t [x, vf] ∧ CompletedAt s t (s.pc + 2)

/-- 42_arith_logic.md R128 (equal operands by decision D13, the result winning in VF by D10): SUB with
not-borrow flag. -/
def Obligations.SubSetsNotBorrow : Prop :=
  ∀ (x y : Nibble) (s : State), decode (0x8#4 ++ x ++ y ++ 0x5#4) = some (.subReg x y) ∧
    ∃ t, exec (.subReg x y) s = .next t ∧
      ((t.readV x).toNat : Int) = ((s.readV x).toNat - (s.readV y).toNat : Int) % 256 ∧
      (x ≠ vf → (s.readV x).toNat < (s.readV y).toNat → t.readV vf = 0) ∧
      (x ≠ vf → (s.readV y).toNat ≤ (s.readV x).toNat → t.readV vf = 1) ∧
      KeepsVBut s t [x, vf] ∧ CompletedAt s t (s.pc + 2)

/-- 42_arith_logic.md R129 (the operand order is general knowledge G4; D10, D13 as for SUB): SUBN. -/
def Obligations.SubnSetsNotBorrow : Prop :=
  ∀ (x y : Nibble) (s : State), decode (0x8#4 ++ x ++ y ++ 0x7#4) = some (.subnReg x y) ∧
    ∃ t, exec (.subnReg x y) s = .next t ∧
      ((t.readV x).toNat : Int) = ((s.readV y).toNat - (s.readV x).toNat : Int) % 256 ∧
      (x ≠ vf → (s.readV y).toNat < (s.readV x).toNat → t.readV vf = 0) ∧
      (x ≠ vf → (s.readV x).toNat ≤ (s.readV y).toNat → t.readV vf = 1) ∧
      KeepsVBut s t [x, vf] ∧ CompletedAt s t (s.pc + 2)

/-- 43_shifts.md R135 (in place by decision D11, the result winning in VF by D10): SHR, whatever Y is. -/
def Obligations.ShiftRightHalves : Prop :=
  ∀ (x y : Nibble) (s : State), decode (0x8#4 ++ x ++ y ++ 0x6#4) = some (.shr x y) ∧
    ∃ t, exec (.shr x y) s = .next t ∧ (t.readV x).toNat = (s.readV x).toNat / 2 ∧
      (x ≠ vf → (t.readV vf).toNat = (s.readV x).toNat % 2) ∧
      KeepsVBut s t [x, vf] ∧ CompletedAt s t (s.pc + 2)

/-- 43_shifts.md R136 (the flag 0x80 is C3 and decision D12; D10, D11 as for SHR): SHL, whatever Y is. -/
def Obligations.ShiftLeftLeaves0x80 : Prop :=
  ∀ (x y : Nibble) (s : State), decode (0x8#4 ++ x ++ y ++ 0xE#4) = some (.shl x y) ∧
    ∃ t, exec (.shl x y) s = .next t ∧ (t.readV x).toNat = (s.readV x).toNat * 2 % 256 ∧
      (x ≠ vf → 128 ≤ (s.readV x).toNat → t.readV vf = 0x80) ∧
      (x ≠ vf → (s.readV x).toNat < 128 → t.readV vf = 0x00) ∧
      KeepsVBut s t [x, vf] ∧ CompletedAt s t (s.pc + 2)

/-! ## The index register and memory -/

/-- 44_index_memory.md R140: LD I; STEPS as for R121. -/
def Obligations.LoadIndex : Prop :=
  ∀ (nnn : Addr12) (s : State), decode (0xA#4 ++ nnn) = some (.ldI nnn) ∧
    ∃ t, exec (.ldI nnn) s = .next t ∧ t.i.toNat = nnn.toNat ∧ t.pc.toNat = (s.pc.toNat + 2) % 65536 ∧
      t = { s with i := t.i, pc := t.pc, steps := t.steps }

/-- 44_index_memory.md R141 (the offset register is general knowledge G5): BNNN, not wrapped to 12 bits. -/
def Obligations.JumpWithOffset : Prop :=
  ∀ (nnn : Addr12) (s : State), decode (0xB#4 ++ nnn) = some (.jpV0 nnn) ∧
    ∃ t, exec (.jpV0 nnn) s = .next t ∧ t.pc.toNat = nnn.toNat + (s.readV 0).toNat ∧
      t.pc.toNat ≤ 0x10FE ∧ KeepsVBut s t [] ∧ CompletedAt s t t.pc

/-- 44_index_memory.md R142 (VF written to 0, and the wrap at 65536, by decision D15): FX1E. -/
def Obligations.AddToIndexFlagsOverflow : Prop :=
  ∀ (x : Nibble) (s : State), decode (0xF#4 ++ x ++ 0x1E#8) = some (.addI x) ∧
    ∃ t, exec (.addI x) s = .next t ∧ t.i.toNat = (s.i.toNat + (s.readV x).toNat) % 65536 ∧
      (0x0FFF < s.i.toNat + (s.readV x).toNat → t.readV vf = 1) ∧
      (s.i.toNat + (s.readV x).toNat ≤ 0x0FFF → t.readV vf = 0) ∧ KeepsVBut s t [vf] ∧
      t = { s with v := t.v, i := t.i, pc := s.pc + 2, steps := s.steps + 1 }

/-- 44_index_memory.md R143, 20_memory.md R52 (no masking by decision D17): FX29. -/
def Obligations.GlyphAddress : Prop :=
  ∀ (x : Nibble) (s : State), decode (0xF#4 ++ x ++ 0x29#8) = some (.ldFVx x) ∧
    ∃ t, exec (.ldFVx x) s = .next t ∧ t.i.toNat = (s.readV x).toNat * 5 ∧
      t = { s with i := t.i, pc := s.pc + 2, steps := s.steps + 1 }

/-- 44_index_memory.md R144 (digit order G7, range check D7): FX33 in range. -/
def Obligations.DecimalDigitsStored : Prop :=
  ∀ (x : Nibble) (s : State), s.i.toNat + 2 ≤ 0xFFF →
    decode (0xF#4 ++ x ++ 0x33#8) = some (.ldBVx x) ∧
    ∃ t, exec (.ldBVx x) s = .next t ∧
      (Memory.read t.mem s.i.toNat).toNat = (s.readV x).toNat / 100 ∧
      (Memory.read t.mem (s.i.toNat + 1)).toNat = (s.readV x).toNat / 10 % 10 ∧
      (Memory.read t.mem (s.i.toNat + 2)).toNat = (s.readV x).toNat % 10 ∧
      (∀ a, a < s.i.toNat ∨ s.i.toNat + 2 < a → Memory.read t.mem a = Memory.read s.mem a) ∧
      t = { s with mem := t.mem, pc := s.pc + 2, steps := s.steps + 1 }

/-- 44_index_memory.md R145 (direction and range G8, I kept D16, range check D7): FX55 in range. -/
def Obligations.RegistersDumped : Prop :=
  ∀ (x : Nibble) (s : State), s.i.toNat + x.toNat ≤ 0xFFF →
    decode (0xF#4 ++ x ++ 0x55#8) = some (.ldMemVx x) ∧
    ∃ t, exec (.ldMemVx x) s = .next t ∧
      (∀ k : Nibble, k.toNat ≤ x.toNat → Memory.read t.mem (s.i.toNat + k.toNat) = s.readV k) ∧
      (∀ a, a < s.i.toNat ∨ s.i.toNat + x.toNat < a → Memory.read t.mem a = Memory.read s.mem a) ∧
      t = { s with mem := t.mem, pc := s.pc + 2, steps := s.steps + 1 }

/-- 44_index_memory.md R146 (direction and range G8, I kept D16, range check D7): FX65 in range. -/
def Obligations.RegistersLoaded : Prop :=
  ∀ (x : Nibble) (s : State), s.i.toNat + x.toNat ≤ 0xFFF →
    decode (0xF#4 ++ x ++ 0x65#8) = some (.ldVxMem x) ∧
    ∃ t, exec (.ldVxMem x) s = .next t ∧
      (∀ k : Nibble, k.toNat ≤ x.toNat → t.readV k = Memory.read s.mem (s.i.toNat + k.toNat)) ∧
      (∀ k : Nibble, x.toNat < k.toNat → t.readV k = s.readV k) ∧ CompletedAt s t (s.pc + 2)

/-- FX55 then FX65 at the same I: memory as FX55 left it, every register as before both, the step count two
further (44_index_memory.md R145, R146; G8, D16). -/
def Obligations.DumpThenLoadRestores : Prop :=
  ∀ (x : Nibble) (s : State), s.i.toNat + x.toNat ≤ 0xFFF →
    ∃ t u, exec (.ldMemVx x) s = .next t ∧ exec (.ldVxMem x) t = .next u ∧ (∀ r, u.readV r = s.readV r) ∧
      CompletedAt t u (s.pc + 4)

/-- 20_memory.md R63: a store over the next opcode is what the next step fetches (FX55 as the store, its
direction by general knowledge G8). An inference the spec marks as its own. -/
def Obligations.StoreIsSeenByNextFetch : Prop :=
  ∀ (x : Nibble) (s : State) (i : Instr), s.run = .running → 1 ≤ x.toNat → s.pc.toNat + 2 ≤ 0xFFE →
    s.i.toNat = s.pc.toNat + 2 → s.i.toNat + x.toNat ≤ 0xFFF →
    decode (s.readV 0 ++ s.readV 1) = some i →
    ∃ t, exec (.ldMemVx x) s = .next t ∧ step t = exec i t

/-! ## Random, display, input, timers, legacy -/

/-- 45_random.md R150 (the draw is the free value of log 3): CXNN keeps only bits of NN, takes a fresh draw, and
with NN = 0 leaves 0. -/
def Obligations.RandomIsMaskedDraw : Prop :=
  ∀ (x : Nibble) (nn : Byte) (s : State), decode (0xC#4 ++ x ++ nn) = some (.rnd x nn) ∧
    ∃ t, exec (.rnd x nn) s = .next t ∧ t.readV x = Config.drawByte s.draws &&& nn ∧
      (∀ b, nn.getLsbD b = false → (t.readV x).getLsbD b = false) ∧ (nn = 0 → t.readV x = 0) ∧
      KeepsVBut s t [x] ∧
      t = { s with v := t.v, draws := s.draws + 1, pc := s.pc + 2, steps := s.steps + 1 }

/-- 46_display.md R157 (wrapping and N = 0 by D18, geometry by D19 and G9, range check by D7): DXYN flips
exactly the pixels under 1 bits of the sprite and raises DRAWF. -/
def Obligations.DrawFlipsCoveredPixels : Prop :=
  ∀ (x y n : Nibble) (s : State), n.toNat = 0 ∨ s.i.toNat + n.toNat - 1 ≤ 0xFFF →
    decode (0xD#4 ++ x ++ y ++ n) = some (.drw x y n) ∧
    ∃ t, exec (.drw x y n) s = .next t ∧
      (∀ px py, px < screenWidth → py < screenHeight →
        (SpriteCovers s (s.readV x).toNat (s.readV y).toNat n.toNat px py →
          pixel t px py = pixel s px py ^^^ 1) ∧
        (¬ SpriteCovers s (s.readV x).toNat (s.readV y).toNat n.toNat px py → pixel t px py = pixel s px py)) ∧
      (∀ p, screenWidth * screenHeight ≤ p → Screen.read t.fb p = Screen.read s.fb p) ∧
      KeepsVBut s t [vf] ∧
      t = { s with v := t.v, fb := t.fb, drawf := true, pc := s.pc + 2, steps := s.steps + 1 }

/-- 46_display.md R157 (as above): VF is 1 if a lit pixel was turned off, else 0, on every execution. -/
def Obligations.DrawFlagsCollision : Prop :=
  ∀ (x y n : Nibble) (s : State), n.toNat = 0 ∨ s.i.toNat + n.toNat - 1 ≤ 0xFFF →
    ∃ t, exec (.drw x y n) s = .next t ∧
      ((∃ px py, SpriteCovers s (s.readV x).toNat (s.readV y).toNat n.toNat px py ∧ pixel s px py = 1) →
        t.readV vf = 1) ∧
      ((¬ ∃ px py, SpriteCovers s (s.readV x).toNat (s.readV y).toNat n.toNat px py ∧ pixel s px py = 1) →
        t.readV vf = 0)

/-- 46_display.md R160, an inference the spec marks as its own from R157: drawing the same sprite twice at the
same coordinates restores the pixel buffer, and the second VF is 1 exactly if a 1 bit covers a pixel that was dark
before both. -/
def Obligations.DrawTwiceRestoresScreen : Prop :=
  ∀ (x y n : Nibble) (s : State), n.toNat = 0 ∨ s.i.toNat + n.toNat - 1 ≤ 0xFFF → x ≠ vf → y ≠ vf →
    Screen.wf s.fb = true →
    ∃ t u, exec (.drw x y n) s = .next t ∧ exec (.drw x y n) t = .next u ∧ u.fb = s.fb ∧
      (u.readV vf = 1 ↔
        ∃ px py, SpriteCovers s (s.readV x).toNat (s.readV y).toNat n.toNat px py ∧ pixel s px py = 0) ∧
      (u.readV vf ≠ 1 → u.readV vf = 0)

/-- 46_display.md R158 (the opcode is general knowledge G1, DRAWF kept by decision D31): CLS. -/
def Obligations.ClearScreenDarkensAll : Prop :=
  ∀ s : State, decode 0x00E0 = some .cls ∧
    ∃ t, exec .cls s = .next t ∧ (∀ p, Screen.read t.fb p = 0) ∧
      t = { s with fb := t.fb, pc := s.pc + 2, steps := s.steps + 1 }

/-- 47_input.md R166, R167 (which form is which is G13; a code above 15 counts as not pressed by D20): SKP and
SKNP. -/
def Obligations.KeySkips : Prop :=
  ∀ (x : Nibble) (s : State),
    (decode (0xE#4 ++ x ++ 0x9E#8) = some (.skp x) ∧
      ∃ t, exec (.skp x) s = .next t ∧ (KeyIsPressed s (s.readV x) → t.pc = s.pc + 4) ∧
        (¬ KeyIsPressed s (s.readV x) → t.pc = s.pc + 2) ∧ KeepsVBut s t [] ∧ CompletedAt s t t.pc) ∧
    (decode (0xE#4 ++ x ++ 0xA1#8) = some (.sknp x) ∧
      ∃ t, exec (.sknp x) s = .next t ∧ (¬ KeyIsPressed s (s.readV x) → t.pc = s.pc + 4) ∧
        (KeyIsPressed s (s.readV x) → t.pc = s.pc + 2) ∧ KeepsVBut s t [] ∧ CompletedAt s t t.pc)

/-- 47_input.md R168 (PC going on at once is decision D21): FX0A begins the wait and writes no register. -/
def Obligations.KeyWaitSuspends : Prop :=
  ∀ (x : Nibble) (s : State), decode (0xF#4 ++ x ++ 0x0A#8) = some (.ldVxK x) ∧
    ∃ t, exec (.ldVxK x) s = .next t ∧ step t = .next t ∧
      t = { s with kx := x, run := .waitingForKey, pc := s.pc + 2, steps := s.steps + 1 }

/-- 47_input.md R169, 40_step_cycle.md R98 (D21): FX0A, any number of idle STEPs, then KEYDOWN(k): the awaited
register takes the code and the machine runs on at the PC that FX0A left. -/
def Obligations.KeyPressEndsWait : Prop :=
  ∀ (x k : Nibble) (n : Nat) (s : State),
    ∃ t u, exec (.ldVxK x) s = .next t ∧
      runEvents (List.replicate n .step ++ [.keyDown k]) t = .next (u, []) ∧
      (u.readV x).toNat = k.toNat ∧ KeepsVBut s u [x] ∧ u.run = .running ∧ u.lastKey = some k ∧
      (∀ j : Fin 16, u.keys[j] = if j.val = k.toNat then true else s.keys[j]) ∧
      u = { s with
        v := u.v, kx := x, run := .running, pc := s.pc + 2, steps := s.steps + 1, keys := u.keys,
        lastKey := u.lastKey }

/-- 48_timers.md R175-R177 (which code does what is general knowledge G6; BEEP kept by decision D23): FX07, FX15
and FX18. -/
def Obligations.TimerInstructions : Prop :=
  ∀ (x : Nibble) (s : State),
    (decode (0xF#4 ++ x ++ 0x07#8) = some (.ldVxDt x) ∧
      ∃ t, exec (.ldVxDt x) s = .next t ∧ t.readV x = s.dt ∧ KeepsVBut s t [x] ∧ CompletedAt s t (s.pc + 2)) ∧
    (decode (0xF#4 ++ x ++ 0x15#8) = some (.ldDtVx x) ∧
      ∃ t, exec (.ldDtVx x) s = .next t ∧
        t = { s with dt := s.readV x, pc := s.pc + 2, steps := s.steps + 1 }) ∧
    (decode (0xF#4 ++ x ++ 0x18#8) = some (.ldStVx x) ∧
      ∃ t, exec (.ldStVx x) s = .next t ∧
        t = { s with st := s.readV x, pc := s.pc + 2, steps := s.steps + 1 })

/-- 49_legacy_sys.md R180: SYS, any NNN but those of CLS and RET, changes nothing but PC and STEPS; STEPS as for
R121. -/
def Obligations.SysOnlyAdvances : Prop :=
  ∀ (nnn : Addr12) (s : State),
    (nnn ≠ 0x0E0 → nnn ≠ 0x0EE → decode (0x0#4 ++ nnn) = some (.sys nnn)) ∧
    ∃ t, exec (.sys nnn) s = .next t ∧ t.pc.toNat = (s.pc.toNat + 2) % 65536 ∧
      t = { s with pc := t.pc, steps := t.steps }

/-! ## Events -/

/-- 40_step_cycle.md R97 (the order of the outputs, clearing DRAWF, and no effect in Halted are decision D23):
TICK. -/
def Obligations.TickCountsDownAndReports : Prop :=
  ∀ s : State, (s.run = .halted → handle .tick s = .next (s, [])) ∧
    (s.run ≠ .halted →
      ∃ t, handle .tick s = .next (t, [.audioUpdate t.beep, .renderUpdate s.drawf]) ∧
        t.dt.toNat = s.dt.toNat - 1 ∧ t.st.toNat = s.st.toNat - 1 ∧ (t.beep = true ↔ 0 < t.st.toNat) ∧
        t = { s with dt := t.dt, st := t.st, beep := t.beep, drawf := false })

/-- 10_state.md R28: after `n` TICKs each timer has fallen by `n`, never below 0, and BEEP is false exactly if ST
has reached 0 (95_test_vectors.md S7). -/
def Obligations.TimersDecayOverTicks : Prop :=
  ∀ (n : Nat) (s : State), s.run ≠ .halted → 0 < n →
    ∃ t out, runEvents (List.replicate n .tick) s = .next (t, out) ∧ t.dt.toNat = s.dt.toNat - n ∧
      t.st.toNat = s.st.toNat - n ∧ (t.beep = false ↔ s.st.toNat ≤ n) ∧
      t = { s with dt := t.dt, st := t.st, beep := t.beep, drawf := false }

/-- 40_step_cycle.md R98, R99 (a KEYDOWN of a pressed key is one by D33): outside a key-wait KEYDOWN changes only the keys and LASTKEY, and KEYUP changes only
the keys, in every run state. -/
def Obligations.KeyEventsOutsideWait : Prop :=
  ∀ (k : Nibble) (s : State),
    (s.run ≠ .waitingForKey →
      ∃ t, handle (.keyDown k) s = .next (t, []) ∧
        (∀ j : Fin 16, t.keys[j] = if j.val = k.toNat then true else s.keys[j]) ∧
        t = { s with keys := t.keys, lastKey := some k }) ∧
    ∃ t, handle (.keyUp k) s = .next (t, []) ∧
      (∀ j : Fin 16, t.keys[j] = if j.val = k.toNat then false else s.keys[j]) ∧ t = { s with keys := t.keys }

/-- 40_step_cycle.md R100 (FAULT unchanged is decision D24): STOP. -/
def Obligations.StopHalts : Prop :=
  ∀ s : State, ∃ t, handle .stop s = .next (t, []) ∧ step t = .next t ∧ t = { s with run := .halted }

/-- 40_step_cycle.md R101, 20_memory.md R54 (refusal by decision D27): LOAD, in every run state, Halted among them (log 23
says why R209 of 60_exceptions.md does not bar it). -/
def Obligations.LoadCopiesImage : Prop :=
  ∀ (rom : List Byte) (s : State),
    (rom.length ≤ 3584 → ∃ t, handle (.load rom) s = .next (t, []) ∧ ImageCopied s t rom) ∧
    (3584 < rom.length → handle (.load rom) s = .next (s, [.loadRefused]))

/-- 70_reset_and_hazards.md R220, 10_state.md R40 (I, DT, ST, RUN, KX, DRAWF, BEEP, STEPS, FAULT and FB by D1, D2,
D22, D26; the draws by log 3): INITIALIZE from any state. -/
def Obligations.InitializeSetsResetValues : Prop :=
  ∀ s : State, ∃ t, handle .init s = .next (t, []) ∧ (∀ x, t.readV x = 0) ∧ t.i = 0 ∧ t.pc = 0x200 ∧
    (∀ j : Fin 16, t.stack[j] = 0) ∧ t.sp.val = 0 ∧ t.dt = 0 ∧ t.st = 0 ∧ t.run = .running ∧ t.kx = 0 ∧
    t.drawf = false ∧ t.beep = false ∧ t.steps = 0 ∧ t.fault = none ∧
    (∀ a, (h : a < font.length) → Memory.read t.mem a = font[a]) ∧
    (∀ a, 80 ≤ a → Memory.read t.mem a = 0) ∧ (∀ p, Screen.read t.fb p = 0) ∧
    t.keys = s.keys ∧ t.lastKey = s.lastKey ∧ t.draws = s.draws

/-- 60_exceptions.md R200; 40_step_cycle.md R91: no schedule without INITIALIZE leaves Halted or changes the fault record;
it changes KEYS and LASTKEY, and memory only if it has a LOAD (log 23); TICK and STOP there by D23, D24. -/
def Obligations.HaltedIsTerminal : Prop :=
  ∀ (es : List Event) (s : State), s.run = .halted → Event.init ∉ es →
    ∃ t out, runEvents es s = .next (t, out) ∧
      t = { s with keys := t.keys, lastKey := t.lastKey, mem := t.mem } ∧
      (t.mem = s.mem ∨ ∃ rom, Event.load rom ∈ es)
end

