-- ==== Sys2Proof/Laws/Decode.lean ====
section
/-! SUPPORT. The fields of an opcode put together from fields, and an opcode from its two bytes. -/

namespace Sys2Proof

/-- Bit `b` of a field. -/
theorem getLsbD_opField (op : Word) (lo len b : Nat) :
    (op.extractLsb' lo len).getLsbD b = (decide (b < len) && op.getLsbD (lo + b)) := by
  simp

section Forms

variable (f x y n : Nibble) (nn : Byte) (nnn : Addr12)

@[simp] theorem opF_formNNN : opF (formNNN f nnn) = f := by
  refine BitVec.eq_of_getLsbD_eq fun b hb => ?_
  simp only [opF, formNNN, BitVec.getLsbD_extractLsb', BitVec.getLsbD_append]
  simp [hb]

@[simp] theorem opNNN_formNNN : opNNN (formNNN f nnn) = nnn := by
  refine BitVec.eq_of_getLsbD_eq fun b hb => ?_
  simp only [opNNN, formNNN, BitVec.getLsbD_extractLsb', BitVec.getLsbD_append]
  simp [hb]

@[simp] theorem opF_formXNN : opF (formXNN f x nn) = f := by
  refine BitVec.eq_of_getLsbD_eq fun b hb => ?_
  simp only [opF, formXNN, BitVec.getLsbD_extractLsb', BitVec.getLsbD_append]
  simp [hb, show ¬ 12 + b < 8 by omega, show ¬ 12 + b - 8 < 4 by omega, show 12 + b - 8 - 4 = b by omega]

@[simp] theorem opX_formXNN : opX (formXNN f x nn) = x := by
  refine BitVec.eq_of_getLsbD_eq fun b hb => ?_
  simp only [opX, formXNN, BitVec.getLsbD_extractLsb', BitVec.getLsbD_append]
  simp [hb]

@[simp] theorem opNN_formXNN : opNN (formXNN f x nn) = nn := by
  refine BitVec.eq_of_getLsbD_eq fun b hb => ?_
  simp only [opNN, formXNN, BitVec.getLsbD_extractLsb', BitVec.getLsbD_append]
  simp [hb]

@[simp] theorem opF_formXYN : opF (formXYN f x y n) = f := by
  refine BitVec.eq_of_getLsbD_eq fun b hb => ?_
  simp only [opF, formXYN, BitVec.getLsbD_extractLsb', BitVec.getLsbD_append]
  simp [hb, show ¬ 12 + b < 4 by omega, show ¬ 12 + b - 4 < 4 by omega, show ¬ 12 + b - 4 - 4 < 4 by omega,
    show 12 + b - 4 - 4 - 4 = b by omega]

@[simp] theorem opX_formXYN : opX (formXYN f x y n) = x := by
  refine BitVec.eq_of_getLsbD_eq fun b hb => ?_
  simp only [opX, formXYN, BitVec.getLsbD_extractLsb', BitVec.getLsbD_append]
  simp [hb, show ¬ 8 + b < 4 by omega, show ¬ 8 + b - 4 < 4 by omega, show 8 + b - 4 - 4 = b by omega]

@[simp] theorem opY_formXYN : opY (formXYN f x y n) = y := by
  refine BitVec.eq_of_getLsbD_eq fun b hb => ?_
  simp only [opY, formXYN, BitVec.getLsbD_extractLsb', BitVec.getLsbD_append]
  simp [hb]

@[simp] theorem opN_formXYN : opN (formXYN f x y n) = n := by
  refine BitVec.eq_of_getLsbD_eq fun b hb => ?_
  simp only [opN, formXYN, BitVec.getLsbD_extractLsb', BitVec.getLsbD_append]
  simp [hb]

end Forms

/-- An opcode is its family and the rest, in format NNN. -/
theorem formNNN_fields (op : Word) : formNNN (opF op) (opNNN op) = op := by
  refine BitVec.eq_of_getLsbD_eq fun b hb => ?_
  simp only [opF, opNNN, formNNN, BitVec.getLsbD_extractLsb', BitVec.getLsbD_append]
  split
  · simp_all
  · simp [show b - 12 < 4 by omega, show 12 + (b - 12) = b by omega]

/-- An opcode is its fields, in formats XNN and XKK. -/
theorem formXNN_fields (op : Word) : formXNN (opF op) (opX op) (opNN op) = op := by
  refine BitVec.eq_of_getLsbD_eq fun b hb => ?_
  simp only [opF, opX, opNN, formXNN, BitVec.getLsbD_extractLsb', BitVec.getLsbD_append]
  split
  · simp_all
  · split
    · simp_all [show 8 + (b - 8) = b by omega]
    · simp [show b - 8 - 4 < 4 by omega, show 12 + (b - 8 - 4) = b by omega]

/-- An opcode is its fields, in formats XYK and XYN. -/
theorem formXYN_fields (op : Word) : formXYN (opF op) (opX op) (opY op) (opN op) = op := by
  refine BitVec.eq_of_getLsbD_eq fun b hb => ?_
  simp only [opF, opX, opY, opN, formXYN, BitVec.getLsbD_extractLsb', BitVec.getLsbD_append]
  split
  · simp_all
  · split
    · simp_all [show 4 + (b - 4) = b by omega]
    · split
      · simp_all [show 8 + (b - 4 - 4) = b by omega]
      · simp [show b - 4 - 4 - 4 < 4 by omega, show 12 + (b - 4 - 4 - 4) = b by omega]

/-- The two bytes of an opcode make it again (20_memory.md R55). -/
@[simp] theorem opcodeOfBytes_hi_lo (op : Word) : opcodeOfBytes (opcodeHi op) (opcodeLo op) = op := by
  refine BitVec.eq_of_getLsbD_eq fun b hb => ?_
  simp only [opcodeOfBytes, opcodeHi, opcodeLo, BitVec.getLsbD_extractLsb', BitVec.getLsbD_append]
  split
  · simp_all
  · simp [show b - 8 < 8 by omega, show 8 + (b - 8) = b by omega]

/-! The digits of an opcode as a number (30_encoding.md R71) -/

theorem opF_toNat (op : Word) : (opF op).toNat = op.toNat / 4096 := by
  have := op.isLt
  simp only [opF, BitVec.extractLsb'_toNat, Nat.shiftRight_eq_div_pow]
  omega

theorem opN_toNat (op : Word) : (opN op).toNat = op.toNat % 16 := by
  simp [opN, BitVec.extractLsb'_toNat]

theorem opNN_toNat (op : Word) : (opNN op).toNat = op.toNat % 256 := by
  simp [opNN, BitVec.extractLsb'_toNat]

theorem opNNN_toNat (op : Word) : (opNNN op).toNat = op.toNat % 4096 := by
  simp [opNNN, BitVec.extractLsb'_toNat]

/-- The decoder reads a table word as `decode` reads its bits (30_encoding.md R71). -/
theorem decodeTableWord_eq (nbits w : Nat) : decodeTableWord nbits w = decode (opcodeOfTable nbits w) := by
  simp only [decodeTableWord, decodeBytes, opcodeOfBytes_hi_lo]
  cases decode (opcodeOfTable nbits w) <;> rfl

end Sys2Proof
end

