-- ==== Sys2Proof/Laws/Memory.lean ====
section
/-! SUPPORT. The laws of sparse bytes, then of memory and of the pixel buffer: a read after a write, the canonical
form kept by every operation, and equal reads making equal canonical lists. -/

namespace Sys2Proof.Machine

/-! ## Sparse bytes -/

theorem Cells.read_filter (d : Nat → Byte) (m : List Host.Cell) (a b : Nat) :
    Cells.read d (m.filter (fun c => c.1 != a)) b = if b = a then d a else Cells.read d m b := by
  induction m with
  | nil => simp [Cells.read]; intro h; rw [h]
  | cons c rest ih =>
    by_cases hc : c.1 = a
    · rw [List.filter_cons_of_neg (by simp [hc]), ih]
      by_cases hb : b = a
      · simp [hb]
      · have : ¬ c.1 = b := fun e => hb (e ▸ hc)
        simp [Cells.read, hb, this]
    · rw [List.filter_cons_of_pos (by simpa using hc)]
      simp only [Cells.read, ih]
      by_cases hb : b = a
      · simp [hb, hc]
      · simp [hb]

theorem Cells.read_insert (d : Nat → Byte) (m : List Host.Cell) (a b : Nat) (v : Byte) :
    Cells.read d (Cells.insert a v m) b = if b = a then v else Cells.read d m b := by
  induction m with
  | nil => simp only [Cells.insert, Cells.read, eq_comm]
  | cons c rest ih =>
    simp only [Cells.insert]
    split
    · simp only [Cells.read, eq_comm]
    · split
      · rename_i hc
        simp only [Cells.read, hc]
        by_cases hb : b = a
        · simp [hb]
        · have : ¬ a = b := fun e => hb e.symm
          simp [hb, this]
      · rename_i hc
        simp only [Cells.read, ih]
        by_cases hb : b = a
        · have : ¬ c.1 = b := fun e => hc (e.trans hb)
          simp [hb]
          intro h
          exact absurd h hc
        · simp [hb]

/-- A read after a write: the byte written at its address, every other address as before. -/
theorem Cells.read_write (d : Nat → Byte) (m : List Host.Cell) (a b : Nat) (v : Byte) :
    Cells.read d (Cells.write d m a v) b = if b = a then v else Cells.read d m b := by
  simp only [Cells.write]
  split
  · rename_i h
    rw [Cells.read_filter, h]
  · exact Cells.read_insert d m a b v

theorem Cells.wf_cons {size : Nat} {d : Nat → Byte} {c : Host.Cell} {rest : List Host.Cell} :
    Cells.wf size d (c :: rest) = true ↔
      c.1 < size ∧ c.2 ≠ d c.1 ∧ (∀ e ∈ rest, c.1 < e.1) ∧ Cells.wf size d rest = true := by
  simp [Cells.wf, and_assoc]

theorem Cells.wf_filter {size : Nat} {d : Nat → Byte} {m : List Host.Cell} (p : Host.Cell → Bool)
    (h : Cells.wf size d m = true) : Cells.wf size d (m.filter p) = true := by
  induction m with
  | nil => rfl
  | cons c rest ih =>
    obtain ⟨h1, h2, h3, h4⟩ := Cells.wf_cons.mp h
    by_cases hp : p c = true
    · rw [List.filter_cons_of_pos hp]
      exact Cells.wf_cons.mpr ⟨h1, h2, fun e he => h3 e (List.mem_filter.mp he).1, ih h4⟩
    · rw [List.filter_cons_of_neg hp]
      exact ih h4

theorem Cells.mem_insert {a : Nat} {v : Byte} {m : List Host.Cell} {e : Host.Cell}
    (h : e ∈ Cells.insert a v m) : e = (a, v) ∨ e ∈ m := by
  induction m with
  | nil => simpa [Cells.insert] using h
  | cons c rest ih =>
    simp only [Cells.insert] at h
    split at h
    · simpa using h
    · split at h
      · rcases List.mem_cons.mp h with h | h
        · exact .inl h
        · exact .inr (List.mem_cons_of_mem _ h)
      · rcases List.mem_cons.mp h with h | h
        · exact .inr (h ▸ List.mem_cons_self)
        · exact (ih h).imp_right (List.mem_cons_of_mem _)

theorem Cells.wf_insert {size : Nat} {d : Nat → Byte} {m : List Host.Cell} {a : Nat} {v : Byte}
    (h : Cells.wf size d m = true) (ha : a < size) (hv : v ≠ d a) :
    Cells.wf size d (Cells.insert a v m) = true := by
  induction m with
  | nil => exact Cells.wf_cons.mpr ⟨ha, hv, by simp, rfl⟩
  | cons c rest ih =>
    obtain ⟨h1, h2, h3, h4⟩ := Cells.wf_cons.mp h
    simp only [Cells.insert]
    split
    · rename_i hlt
      refine Cells.wf_cons.mpr ⟨ha, hv, fun e he => ?_, h⟩
      rcases List.mem_cons.mp he with rfl | he
      · exact hlt
      · exact hlt.trans (h3 e he)
    · split
      · rename_i heq
        exact Cells.wf_cons.mpr ⟨ha, hv, fun e he => heq ▸ h3 e he, h4⟩
      · refine Cells.wf_cons.mpr ⟨h1, h2, fun e he => ?_, ih h4⟩
        rcases Cells.mem_insert he with rfl | he
        · change c.1 < a
          omega
        · exact h3 e he

/-- A write inside the size keeps the canonical form. -/
theorem Cells.wf_write {size : Nat} {d : Nat → Byte} {m : List Host.Cell} {a : Nat} {v : Byte}
    (h : Cells.wf size d m = true) (ha : a < size) : Cells.wf size d (Cells.write d m a v) = true := by
  simp only [Cells.write]
  split
  · exact Cells.wf_filter _ h
  · rename_i hv
    exact Cells.wf_insert h ha hv

theorem Cells.read_of_lt {size : Nat} {d : Nat → Byte} {m : List Host.Cell} {a : Nat}
    (h : ∀ e ∈ m, a < e.1) (_ : Cells.wf size d m = true) : Cells.read d m a = d a := by
  induction m with
  | nil => rfl
  | cons c rest ih =>
    have hc := h c List.mem_cons_self
    rw [Cells.read, if_neg (by omega)]
    exact ih (fun e he => h e (List.mem_cons_of_mem _ he)) (Cells.wf_cons.mp ‹_›).2.2.2

/-- Canonical lists that read the same everywhere are equal. -/
theorem Cells.ext_read {size : Nat} {d : Nat → Byte} {m n : List Host.Cell} (hm : Cells.wf size d m = true)
    (hn : Cells.wf size d n = true) (h : ∀ a, Cells.read d m a = Cells.read d n a) : m = n := by
  induction m generalizing n with
  | nil =>
    cases n with
    | nil => rfl
    | cons e rest =>
      have := h e.1
      simp only [Cells.read, if_true] at this
      exact absurd this.symm (Cells.wf_cons.mp hn).2.1
  | cons c rest ih =>
    cases n with
    | nil =>
      have := h c.1
      simp only [Cells.read, if_true] at this
      exact absurd this (Cells.wf_cons.mp hm).2.1
    | cons e rest' =>
      obtain ⟨-, c2, c3, c4⟩ := Cells.wf_cons.mp hm
      obtain ⟨-, e2, e3, e4⟩ := Cells.wf_cons.mp hn
      have haddr : c.1 = e.1 := by
        rcases Nat.lt_trichotomy c.1 e.1 with hlt | heq | hgt
        · have := h c.1
          rw [Cells.read, if_pos rfl, Cells.read_of_lt (size := size) (fun x hx => ?_) hn] at this
          · exact absurd this c2
          · rcases List.mem_cons.mp hx with rfl | hx
            · exact hlt
            · exact hlt.trans (e3 x hx)
        · exact heq
        · have := h e.1
          rw [Cells.read_of_lt (size := size) (fun x hx => ?_) hm, Cells.read, if_pos rfl] at this
          · exact absurd this.symm e2
          · rcases List.mem_cons.mp hx with rfl | hx
            · exact hgt
            · exact hgt.trans (c3 x hx)
      have hval : c.2 = e.2 := by
        have := h c.1
        rwa [Cells.read, if_pos rfl, Cells.read, if_pos haddr.symm] at this
      have htail : rest = rest' := by
        refine ih c4 e4 fun a => ?_
        by_cases ha : a ≤ c.1
        · rw [Cells.read_of_lt (fun x hx => Nat.lt_of_le_of_lt ha (c3 x hx)) c4,
            Cells.read_of_lt (fun x hx => Nat.lt_of_le_of_lt ha (haddr ▸ e3 x hx)) e4]
        · have := h a
          rwa [Cells.read, if_neg (by omega), Cells.read, if_neg (by omega)] at this
      rw [show c = e from Prod.ext haddr hval, htail]

/-! ## Memory -/

/-- A byte read after a byte stored. -/
theorem Memory.read_write (m : List Host.Cell) (a b : Nat) (v : Byte) :
    Memory.read (Memory.write m a v) b = if b = a then v else Memory.read m b :=
  Cells.read_write _ m a b v

/-- A byte read after a run of bytes stored from `a` up. -/
theorem Memory.read_writeBytes (bs : List Byte) : ∀ (m : List Host.Cell) (a b : Nat),
    Memory.read (Memory.writeBytes m a bs) b =
      if h : a ≤ b ∧ b < a + bs.length then bs[b - a]'(by omega) else Memory.read m b := by
  induction bs with
  | nil => intro m a b; rw [dif_neg (by simp)]; rfl
  | cons v rest ih =>
    intro m a b
    simp only [Memory.writeBytes, ih, List.length_cons]
    by_cases hb : a = b
    · subst hb
      simp [Memory.read_write]
    · by_cases h : a + 1 ≤ b ∧ b < a + 1 + rest.length
      · rw [dif_pos h, dif_pos (by omega)]
        have e : b - a = (b - (a + 1)) + 1 := by omega
        simp only [e, List.getElem_cons_succ]
      · rw [dif_neg h, dif_neg (by omega), Memory.read_write, if_neg (fun e => hb e.symm)]

/-- A run of bytes stored outside an address leaves it. -/
theorem Memory.read_writeBytes_outside {bs : List Byte} {m : List Host.Cell} {a b : Nat}
    (h : b < a ∨ a + bs.length ≤ b) : Memory.read (Memory.writeBytes m a bs) b = Memory.read m b := by
  rw [Memory.read_writeBytes, dif_neg (by omega)]

/-- A run of bytes stored is read back. -/
theorem Memory.read_writeBytes_inside {bs : List Byte} {m : List Host.Cell} {a k : Nat} (h : k < bs.length) :
    Memory.read (Memory.writeBytes m a bs) (a + k) = bs[k] := by
  rw [Memory.read_writeBytes, dif_pos (by omega)]
  simp

/-- Storing a byte in memory keeps the canonical form. -/
theorem Memory.wf_write {m : List Host.Cell} {a : Nat} {v : Byte} (h : Memory.wf m = true)
    (ha : a < Config.memSize) : Memory.wf (Memory.write m a v) = true :=
  Cells.wf_write h ha

/-- Storing a run of bytes in memory keeps the canonical form. -/
theorem Memory.wf_writeBytes (bs : List Byte) : ∀ {m : List Host.Cell} {a : Nat}, Memory.wf m = true →
    bs = [] ∨ a + bs.length ≤ Config.memSize → Memory.wf (Memory.writeBytes m a bs) = true := by
  induction bs with
  | nil => exact fun h _ => h
  | cons v rest ih =>
    intro m a h ha
    have ha : a + (rest.length + 1) ≤ Config.memSize := by simpa using ha
    exact ih (Memory.wf_write h (by omega)) (.inr (by omega))

@[simp] theorem Memory.length_readBytes (m : List Host.Cell) (a n : Nat) :
    (Memory.readBytes m a n).length = n := by
  simp [Memory.readBytes]

theorem Memory.getElem_readBytes {m : List Host.Cell} {a n k : Nat} (h : k < (Memory.readBytes m a n).length) :
    (Memory.readBytes m a n)[k] = Memory.read m (a + k) := by
  simp [Memory.readBytes]

/-- In range: no byte at all, or the last one at most 0xFFF (20_memory.md R57). -/
theorem Memory.inRange_iff {a n : Nat} : Memory.inRange a n = true ↔ n = 0 ∨ a + n ≤ 4096 := by
  rw [Memory.inRange, Bool.or_eq_true, beq_iff_eq, decide_eq_true_eq, Config.memSize]

/-! ## The pixel buffer -/

/-- A pixel byte read after one stored. -/
theorem Screen.read_write (f : List Host.Cell) (p q : Nat) (v : Byte) :
    Screen.read (Screen.write f p v) q = if q = p then v else Screen.read f q :=
  Cells.read_write _ f p q v

/-- A wrapped coordinate pair is a pixel of the buffer (92_eei_decisions.md D18). -/
theorem Screen.index_lt (x y : Nat) : Screen.index x y < Screen.size := by
  simp only [Screen.index, Screen.size, screenWidth, screenHeight]
  omega

theorem Screen.mem_filter_or_insert {f : List Host.Cell} {p : Nat} {v : Byte} {e : Host.Cell}
    (h : e ∈ Screen.write f p v) : e = (p, v) ∨ e ∈ f := by
  simp only [Screen.write, Cells.write] at h
  split at h
  · exact .inr (List.mem_filter.mp h).1
  · exact Cells.mem_insert h

theorem Screen.wf_iff {f : List Host.Cell} :
    Screen.wf f = true ↔ Cells.wf Screen.size Screen.dark f = true ∧ ∀ e ∈ f, e.2 = 1 := by
  simp [Screen.wf]

/-- Storing a 0 or a 1 in a pixel keeps the canonical form. -/
theorem Screen.wf_write {f : List Host.Cell} {p : Nat} {v : Byte} (h : Screen.wf f = true)
    (hp : p < Screen.size) (hv : v = 0 ∨ v = 1) : Screen.wf (Screen.write f p v) = true := by
  obtain ⟨h1, h2⟩ := Screen.wf_iff.mp h
  refine Screen.wf_iff.mpr ⟨Cells.wf_write h1 hp, fun e he => ?_⟩
  rcases hv with rfl | rfl
  · simp only [Screen.write, Cells.write, Screen.dark, if_true] at he
    exact h2 e (List.mem_filter.mp he).1
  · rcases Screen.mem_filter_or_insert he with rfl | he
    · rfl
    · exact h2 e he

/-- In canonical form every pixel byte is 0 or 1 (10_state.md R37). -/
theorem Screen.read_zero_or_one {f : List Host.Cell} (h : Screen.wf f = true) (p : Nat) :
    Screen.read f p = 0 ∨ Screen.read f p = 1 := by
  have h2 := (Screen.wf_iff.mp h).2
  clear h
  induction f with
  | nil => exact .inl rfl
  | cons c rest ih =>
    simp only [Screen.read, Cells.read]
    split
    · exact .inr (h2 c List.mem_cons_self)
    · exact ih fun e he => h2 e (List.mem_cons_of_mem _ he)

/-- Canonical pixel buffers that show the same are equal. -/
theorem Screen.ext_read {f g : List Host.Cell} (hf : Screen.wf f = true) (hg : Screen.wf g = true)
    (h : ∀ p, Screen.read f p = Screen.read g p) : f = g :=
  Cells.ext_read (Screen.wf_iff.mp hf).1 (Screen.wf_iff.mp hg).1 h

end Sys2Proof.Machine
end

