-- ==== Sys2Proof/Laws/State.lean ====
section
/-! SUPPORT. For each update of the state, what each of its fields is afterwards: one lemma a field, true by
unfolding once, so that no proof unfolds a record update again. -/

namespace Sys2Proof.Machine

variable (s : State)

/-! ### `State.writeV` -/

@[simp] theorem State.writeV_v (x : Nibble) (b : Byte) : (s.writeV x b).v = s.v.set x.toNat b x.isLt := rfl
@[simp] theorem State.writeV_i (x : Nibble) (b : Byte) : (s.writeV x b).i = s.i := rfl
@[simp] theorem State.writeV_pc (x : Nibble) (b : Byte) : (s.writeV x b).pc = s.pc := rfl
@[simp] theorem State.writeV_stack (x : Nibble) (b : Byte) : (s.writeV x b).stack = s.stack := rfl
@[simp] theorem State.writeV_sp (x : Nibble) (b : Byte) : (s.writeV x b).sp = s.sp := rfl
@[simp] theorem State.writeV_dt (x : Nibble) (b : Byte) : (s.writeV x b).dt = s.dt := rfl
@[simp] theorem State.writeV_st (x : Nibble) (b : Byte) : (s.writeV x b).st = s.st := rfl
@[simp] theorem State.writeV_run (x : Nibble) (b : Byte) : (s.writeV x b).run = s.run := rfl
@[simp] theorem State.writeV_kx (x : Nibble) (b : Byte) : (s.writeV x b).kx = s.kx := rfl
@[simp] theorem State.writeV_drawf (x : Nibble) (b : Byte) : (s.writeV x b).drawf = s.drawf := rfl
@[simp] theorem State.writeV_beep (x : Nibble) (b : Byte) : (s.writeV x b).beep = s.beep := rfl
@[simp] theorem State.writeV_steps (x : Nibble) (b : Byte) : (s.writeV x b).steps = s.steps := rfl
@[simp] theorem State.writeV_fault (x : Nibble) (b : Byte) : (s.writeV x b).fault = s.fault := rfl
@[simp] theorem State.writeV_mem (x : Nibble) (b : Byte) : (s.writeV x b).mem = s.mem := rfl
@[simp] theorem State.writeV_fb (x : Nibble) (b : Byte) : (s.writeV x b).fb = s.fb := rfl
@[simp] theorem State.writeV_keys (x : Nibble) (b : Byte) : (s.writeV x b).keys = s.keys := rfl
@[simp] theorem State.writeV_lastKey (x : Nibble) (b : Byte) : (s.writeV x b).lastKey = s.lastKey := rfl
@[simp] theorem State.writeV_draws (x : Nibble) (b : Byte) : (s.writeV x b).draws = s.draws := rfl

/-! ### `State.writeI` -/

@[simp] theorem State.writeI_v (a : Word) : (s.writeI a).v = s.v := rfl
@[simp] theorem State.writeI_i (a : Word) : (s.writeI a).i = a := rfl
@[simp] theorem State.writeI_pc (a : Word) : (s.writeI a).pc = s.pc := rfl
@[simp] theorem State.writeI_stack (a : Word) : (s.writeI a).stack = s.stack := rfl
@[simp] theorem State.writeI_sp (a : Word) : (s.writeI a).sp = s.sp := rfl
@[simp] theorem State.writeI_dt (a : Word) : (s.writeI a).dt = s.dt := rfl
@[simp] theorem State.writeI_st (a : Word) : (s.writeI a).st = s.st := rfl
@[simp] theorem State.writeI_run (a : Word) : (s.writeI a).run = s.run := rfl
@[simp] theorem State.writeI_kx (a : Word) : (s.writeI a).kx = s.kx := rfl
@[simp] theorem State.writeI_drawf (a : Word) : (s.writeI a).drawf = s.drawf := rfl
@[simp] theorem State.writeI_beep (a : Word) : (s.writeI a).beep = s.beep := rfl
@[simp] theorem State.writeI_steps (a : Word) : (s.writeI a).steps = s.steps := rfl
@[simp] theorem State.writeI_fault (a : Word) : (s.writeI a).fault = s.fault := rfl
@[simp] theorem State.writeI_mem (a : Word) : (s.writeI a).mem = s.mem := rfl
@[simp] theorem State.writeI_fb (a : Word) : (s.writeI a).fb = s.fb := rfl
@[simp] theorem State.writeI_keys (a : Word) : (s.writeI a).keys = s.keys := rfl
@[simp] theorem State.writeI_lastKey (a : Word) : (s.writeI a).lastKey = s.lastKey := rfl
@[simp] theorem State.writeI_draws (a : Word) : (s.writeI a).draws = s.draws := rfl

/-! ### `State.writeDT` -/

@[simp] theorem State.writeDT_v (b : Byte) : (s.writeDT b).v = s.v := rfl
@[simp] theorem State.writeDT_i (b : Byte) : (s.writeDT b).i = s.i := rfl
@[simp] theorem State.writeDT_pc (b : Byte) : (s.writeDT b).pc = s.pc := rfl
@[simp] theorem State.writeDT_stack (b : Byte) : (s.writeDT b).stack = s.stack := rfl
@[simp] theorem State.writeDT_sp (b : Byte) : (s.writeDT b).sp = s.sp := rfl
@[simp] theorem State.writeDT_dt (b : Byte) : (s.writeDT b).dt = b := rfl
@[simp] theorem State.writeDT_st (b : Byte) : (s.writeDT b).st = s.st := rfl
@[simp] theorem State.writeDT_run (b : Byte) : (s.writeDT b).run = s.run := rfl
@[simp] theorem State.writeDT_kx (b : Byte) : (s.writeDT b).kx = s.kx := rfl
@[simp] theorem State.writeDT_drawf (b : Byte) : (s.writeDT b).drawf = s.drawf := rfl
@[simp] theorem State.writeDT_beep (b : Byte) : (s.writeDT b).beep = s.beep := rfl
@[simp] theorem State.writeDT_steps (b : Byte) : (s.writeDT b).steps = s.steps := rfl
@[simp] theorem State.writeDT_fault (b : Byte) : (s.writeDT b).fault = s.fault := rfl
@[simp] theorem State.writeDT_mem (b : Byte) : (s.writeDT b).mem = s.mem := rfl
@[simp] theorem State.writeDT_fb (b : Byte) : (s.writeDT b).fb = s.fb := rfl
@[simp] theorem State.writeDT_keys (b : Byte) : (s.writeDT b).keys = s.keys := rfl
@[simp] theorem State.writeDT_lastKey (b : Byte) : (s.writeDT b).lastKey = s.lastKey := rfl
@[simp] theorem State.writeDT_draws (b : Byte) : (s.writeDT b).draws = s.draws := rfl

/-! ### `State.writeST` -/

@[simp] theorem State.writeST_v (b : Byte) : (s.writeST b).v = s.v := rfl
@[simp] theorem State.writeST_i (b : Byte) : (s.writeST b).i = s.i := rfl
@[simp] theorem State.writeST_pc (b : Byte) : (s.writeST b).pc = s.pc := rfl
@[simp] theorem State.writeST_stack (b : Byte) : (s.writeST b).stack = s.stack := rfl
@[simp] theorem State.writeST_sp (b : Byte) : (s.writeST b).sp = s.sp := rfl
@[simp] theorem State.writeST_dt (b : Byte) : (s.writeST b).dt = s.dt := rfl
@[simp] theorem State.writeST_st (b : Byte) : (s.writeST b).st = b := rfl
@[simp] theorem State.writeST_run (b : Byte) : (s.writeST b).run = s.run := rfl
@[simp] theorem State.writeST_kx (b : Byte) : (s.writeST b).kx = s.kx := rfl
@[simp] theorem State.writeST_drawf (b : Byte) : (s.writeST b).drawf = s.drawf := rfl
@[simp] theorem State.writeST_beep (b : Byte) : (s.writeST b).beep = s.beep := rfl
@[simp] theorem State.writeST_steps (b : Byte) : (s.writeST b).steps = s.steps := rfl
@[simp] theorem State.writeST_fault (b : Byte) : (s.writeST b).fault = s.fault := rfl
@[simp] theorem State.writeST_mem (b : Byte) : (s.writeST b).mem = s.mem := rfl
@[simp] theorem State.writeST_fb (b : Byte) : (s.writeST b).fb = s.fb := rfl
@[simp] theorem State.writeST_keys (b : Byte) : (s.writeST b).keys = s.keys := rfl
@[simp] theorem State.writeST_lastKey (b : Byte) : (s.writeST b).lastKey = s.lastKey := rfl
@[simp] theorem State.writeST_draws (b : Byte) : (s.writeST b).draws = s.draws := rfl

/-! ### `State.writeMem` -/

@[simp] theorem State.writeMem_v (m : List Host.Cell) : (s.writeMem m).v = s.v := rfl
@[simp] theorem State.writeMem_i (m : List Host.Cell) : (s.writeMem m).i = s.i := rfl
@[simp] theorem State.writeMem_pc (m : List Host.Cell) : (s.writeMem m).pc = s.pc := rfl
@[simp] theorem State.writeMem_stack (m : List Host.Cell) : (s.writeMem m).stack = s.stack := rfl
@[simp] theorem State.writeMem_sp (m : List Host.Cell) : (s.writeMem m).sp = s.sp := rfl
@[simp] theorem State.writeMem_dt (m : List Host.Cell) : (s.writeMem m).dt = s.dt := rfl
@[simp] theorem State.writeMem_st (m : List Host.Cell) : (s.writeMem m).st = s.st := rfl
@[simp] theorem State.writeMem_run (m : List Host.Cell) : (s.writeMem m).run = s.run := rfl
@[simp] theorem State.writeMem_kx (m : List Host.Cell) : (s.writeMem m).kx = s.kx := rfl
@[simp] theorem State.writeMem_drawf (m : List Host.Cell) : (s.writeMem m).drawf = s.drawf := rfl
@[simp] theorem State.writeMem_beep (m : List Host.Cell) : (s.writeMem m).beep = s.beep := rfl
@[simp] theorem State.writeMem_steps (m : List Host.Cell) : (s.writeMem m).steps = s.steps := rfl
@[simp] theorem State.writeMem_fault (m : List Host.Cell) : (s.writeMem m).fault = s.fault := rfl
@[simp] theorem State.writeMem_mem (m : List Host.Cell) : (s.writeMem m).mem = m := rfl
@[simp] theorem State.writeMem_fb (m : List Host.Cell) : (s.writeMem m).fb = s.fb := rfl
@[simp] theorem State.writeMem_keys (m : List Host.Cell) : (s.writeMem m).keys = s.keys := rfl
@[simp] theorem State.writeMem_lastKey (m : List Host.Cell) : (s.writeMem m).lastKey = s.lastKey := rfl
@[simp] theorem State.writeMem_draws (m : List Host.Cell) : (s.writeMem m).draws = s.draws := rfl

/-! ### `State.writeFB` -/

@[simp] theorem State.writeFB_v (f : List Host.Cell) : (s.writeFB f).v = s.v := rfl
@[simp] theorem State.writeFB_i (f : List Host.Cell) : (s.writeFB f).i = s.i := rfl
@[simp] theorem State.writeFB_pc (f : List Host.Cell) : (s.writeFB f).pc = s.pc := rfl
@[simp] theorem State.writeFB_stack (f : List Host.Cell) : (s.writeFB f).stack = s.stack := rfl
@[simp] theorem State.writeFB_sp (f : List Host.Cell) : (s.writeFB f).sp = s.sp := rfl
@[simp] theorem State.writeFB_dt (f : List Host.Cell) : (s.writeFB f).dt = s.dt := rfl
@[simp] theorem State.writeFB_st (f : List Host.Cell) : (s.writeFB f).st = s.st := rfl
@[simp] theorem State.writeFB_run (f : List Host.Cell) : (s.writeFB f).run = s.run := rfl
@[simp] theorem State.writeFB_kx (f : List Host.Cell) : (s.writeFB f).kx = s.kx := rfl
@[simp] theorem State.writeFB_drawf (f : List Host.Cell) : (s.writeFB f).drawf = s.drawf := rfl
@[simp] theorem State.writeFB_beep (f : List Host.Cell) : (s.writeFB f).beep = s.beep := rfl
@[simp] theorem State.writeFB_steps (f : List Host.Cell) : (s.writeFB f).steps = s.steps := rfl
@[simp] theorem State.writeFB_fault (f : List Host.Cell) : (s.writeFB f).fault = s.fault := rfl
@[simp] theorem State.writeFB_mem (f : List Host.Cell) : (s.writeFB f).mem = s.mem := rfl
@[simp] theorem State.writeFB_fb (f : List Host.Cell) : (s.writeFB f).fb = f := rfl
@[simp] theorem State.writeFB_keys (f : List Host.Cell) : (s.writeFB f).keys = s.keys := rfl
@[simp] theorem State.writeFB_lastKey (f : List Host.Cell) : (s.writeFB f).lastKey = s.lastKey := rfl
@[simp] theorem State.writeFB_draws (f : List Host.Cell) : (s.writeFB f).draws = s.draws := rfl

/-! ### `State.raiseDraw` -/

@[simp] theorem State.raiseDraw_v : s.raiseDraw.v = s.v := rfl
@[simp] theorem State.raiseDraw_i : s.raiseDraw.i = s.i := rfl
@[simp] theorem State.raiseDraw_pc : s.raiseDraw.pc = s.pc := rfl
@[simp] theorem State.raiseDraw_stack : s.raiseDraw.stack = s.stack := rfl
@[simp] theorem State.raiseDraw_sp : s.raiseDraw.sp = s.sp := rfl
@[simp] theorem State.raiseDraw_dt : s.raiseDraw.dt = s.dt := rfl
@[simp] theorem State.raiseDraw_st : s.raiseDraw.st = s.st := rfl
@[simp] theorem State.raiseDraw_run : s.raiseDraw.run = s.run := rfl
@[simp] theorem State.raiseDraw_kx : s.raiseDraw.kx = s.kx := rfl
@[simp] theorem State.raiseDraw_drawf : s.raiseDraw.drawf = true := rfl
@[simp] theorem State.raiseDraw_beep : s.raiseDraw.beep = s.beep := rfl
@[simp] theorem State.raiseDraw_steps : s.raiseDraw.steps = s.steps := rfl
@[simp] theorem State.raiseDraw_fault : s.raiseDraw.fault = s.fault := rfl
@[simp] theorem State.raiseDraw_mem : s.raiseDraw.mem = s.mem := rfl
@[simp] theorem State.raiseDraw_fb : s.raiseDraw.fb = s.fb := rfl
@[simp] theorem State.raiseDraw_keys : s.raiseDraw.keys = s.keys := rfl
@[simp] theorem State.raiseDraw_lastKey : s.raiseDraw.lastKey = s.lastKey := rfl
@[simp] theorem State.raiseDraw_draws : s.raiseDraw.draws = s.draws := rfl

/-! ### `State.waitKey` -/

@[simp] theorem State.waitKey_v (x : Nibble) : (s.waitKey x).v = s.v := rfl
@[simp] theorem State.waitKey_i (x : Nibble) : (s.waitKey x).i = s.i := rfl
@[simp] theorem State.waitKey_pc (x : Nibble) : (s.waitKey x).pc = s.pc := rfl
@[simp] theorem State.waitKey_stack (x : Nibble) : (s.waitKey x).stack = s.stack := rfl
@[simp] theorem State.waitKey_sp (x : Nibble) : (s.waitKey x).sp = s.sp := rfl
@[simp] theorem State.waitKey_dt (x : Nibble) : (s.waitKey x).dt = s.dt := rfl
@[simp] theorem State.waitKey_st (x : Nibble) : (s.waitKey x).st = s.st := rfl
@[simp] theorem State.waitKey_run (x : Nibble) : (s.waitKey x).run = .waitingForKey := rfl
@[simp] theorem State.waitKey_kx (x : Nibble) : (s.waitKey x).kx = x := rfl
@[simp] theorem State.waitKey_drawf (x : Nibble) : (s.waitKey x).drawf = s.drawf := rfl
@[simp] theorem State.waitKey_beep (x : Nibble) : (s.waitKey x).beep = s.beep := rfl
@[simp] theorem State.waitKey_steps (x : Nibble) : (s.waitKey x).steps = s.steps := rfl
@[simp] theorem State.waitKey_fault (x : Nibble) : (s.waitKey x).fault = s.fault := rfl
@[simp] theorem State.waitKey_mem (x : Nibble) : (s.waitKey x).mem = s.mem := rfl
@[simp] theorem State.waitKey_fb (x : Nibble) : (s.waitKey x).fb = s.fb := rfl
@[simp] theorem State.waitKey_keys (x : Nibble) : (s.waitKey x).keys = s.keys := rfl
@[simp] theorem State.waitKey_lastKey (x : Nibble) : (s.waitKey x).lastKey = s.lastKey := rfl
@[simp] theorem State.waitKey_draws (x : Nibble) : (s.waitKey x).draws = s.draws := rfl

/-! ### `State.countDraw` -/

@[simp] theorem State.countDraw_v : s.countDraw.v = s.v := rfl
@[simp] theorem State.countDraw_i : s.countDraw.i = s.i := rfl
@[simp] theorem State.countDraw_pc : s.countDraw.pc = s.pc := rfl
@[simp] theorem State.countDraw_stack : s.countDraw.stack = s.stack := rfl
@[simp] theorem State.countDraw_sp : s.countDraw.sp = s.sp := rfl
@[simp] theorem State.countDraw_dt : s.countDraw.dt = s.dt := rfl
@[simp] theorem State.countDraw_st : s.countDraw.st = s.st := rfl
@[simp] theorem State.countDraw_run : s.countDraw.run = s.run := rfl
@[simp] theorem State.countDraw_kx : s.countDraw.kx = s.kx := rfl
@[simp] theorem State.countDraw_drawf : s.countDraw.drawf = s.drawf := rfl
@[simp] theorem State.countDraw_beep : s.countDraw.beep = s.beep := rfl
@[simp] theorem State.countDraw_steps : s.countDraw.steps = s.steps := rfl
@[simp] theorem State.countDraw_fault : s.countDraw.fault = s.fault := rfl
@[simp] theorem State.countDraw_mem : s.countDraw.mem = s.mem := rfl
@[simp] theorem State.countDraw_fb : s.countDraw.fb = s.fb := rfl
@[simp] theorem State.countDraw_keys : s.countDraw.keys = s.keys := rfl
@[simp] theorem State.countDraw_lastKey : s.countDraw.lastKey = s.lastKey := rfl
@[simp] theorem State.countDraw_draws : s.countDraw.draws = s.draws + 1 := rfl

/-! ### `State.writeVF` -/

@[simp] theorem State.writeVF_v (f : Byte) : (s.writeVF f).v = s.v.set vf.toNat f vf.isLt := rfl
@[simp] theorem State.writeVF_i (f : Byte) : (s.writeVF f).i = s.i := rfl
@[simp] theorem State.writeVF_pc (f : Byte) : (s.writeVF f).pc = s.pc := rfl
@[simp] theorem State.writeVF_stack (f : Byte) : (s.writeVF f).stack = s.stack := rfl
@[simp] theorem State.writeVF_sp (f : Byte) : (s.writeVF f).sp = s.sp := rfl
@[simp] theorem State.writeVF_dt (f : Byte) : (s.writeVF f).dt = s.dt := rfl
@[simp] theorem State.writeVF_st (f : Byte) : (s.writeVF f).st = s.st := rfl
@[simp] theorem State.writeVF_run (f : Byte) : (s.writeVF f).run = s.run := rfl
@[simp] theorem State.writeVF_kx (f : Byte) : (s.writeVF f).kx = s.kx := rfl
@[simp] theorem State.writeVF_drawf (f : Byte) : (s.writeVF f).drawf = s.drawf := rfl
@[simp] theorem State.writeVF_beep (f : Byte) : (s.writeVF f).beep = s.beep := rfl
@[simp] theorem State.writeVF_steps (f : Byte) : (s.writeVF f).steps = s.steps := rfl
@[simp] theorem State.writeVF_fault (f : Byte) : (s.writeVF f).fault = s.fault := rfl
@[simp] theorem State.writeVF_mem (f : Byte) : (s.writeVF f).mem = s.mem := rfl
@[simp] theorem State.writeVF_fb (f : Byte) : (s.writeVF f).fb = s.fb := rfl
@[simp] theorem State.writeVF_keys (f : Byte) : (s.writeVF f).keys = s.keys := rfl
@[simp] theorem State.writeVF_lastKey (f : Byte) : (s.writeVF f).lastKey = s.lastKey := rfl
@[simp] theorem State.writeVF_draws (f : Byte) : (s.writeVF f).draws = s.draws := rfl

/-! ### `State.writeFlagged` -/

@[simp] theorem State.writeFlagged_v (x : Nibble) (f r : Byte) : (s.writeFlagged x f r).v = (s.v.set vf.toNat f vf.isLt).set x.toNat r x.isLt := rfl
@[simp] theorem State.writeFlagged_i (x : Nibble) (f r : Byte) : (s.writeFlagged x f r).i = s.i := rfl
@[simp] theorem State.writeFlagged_pc (x : Nibble) (f r : Byte) : (s.writeFlagged x f r).pc = s.pc := rfl
@[simp] theorem State.writeFlagged_stack (x : Nibble) (f r : Byte) : (s.writeFlagged x f r).stack = s.stack := rfl
@[simp] theorem State.writeFlagged_sp (x : Nibble) (f r : Byte) : (s.writeFlagged x f r).sp = s.sp := rfl
@[simp] theorem State.writeFlagged_dt (x : Nibble) (f r : Byte) : (s.writeFlagged x f r).dt = s.dt := rfl
@[simp] theorem State.writeFlagged_st (x : Nibble) (f r : Byte) : (s.writeFlagged x f r).st = s.st := rfl
@[simp] theorem State.writeFlagged_run (x : Nibble) (f r : Byte) : (s.writeFlagged x f r).run = s.run := rfl
@[simp] theorem State.writeFlagged_kx (x : Nibble) (f r : Byte) : (s.writeFlagged x f r).kx = s.kx := rfl
@[simp] theorem State.writeFlagged_drawf (x : Nibble) (f r : Byte) : (s.writeFlagged x f r).drawf = s.drawf := rfl
@[simp] theorem State.writeFlagged_beep (x : Nibble) (f r : Byte) : (s.writeFlagged x f r).beep = s.beep := rfl
@[simp] theorem State.writeFlagged_steps (x : Nibble) (f r : Byte) : (s.writeFlagged x f r).steps = s.steps := rfl
@[simp] theorem State.writeFlagged_fault (x : Nibble) (f r : Byte) : (s.writeFlagged x f r).fault = s.fault := rfl
@[simp] theorem State.writeFlagged_mem (x : Nibble) (f r : Byte) : (s.writeFlagged x f r).mem = s.mem := rfl
@[simp] theorem State.writeFlagged_fb (x : Nibble) (f r : Byte) : (s.writeFlagged x f r).fb = s.fb := rfl
@[simp] theorem State.writeFlagged_keys (x : Nibble) (f r : Byte) : (s.writeFlagged x f r).keys = s.keys := rfl
@[simp] theorem State.writeFlagged_lastKey (x : Nibble) (f r : Byte) : (s.writeFlagged x f r).lastKey = s.lastKey := rfl
@[simp] theorem State.writeFlagged_draws (x : Nibble) (f r : Byte) : (s.writeFlagged x f r).draws = s.draws := rfl

/-! ### `State.writeVs` -/

@[simp] theorem State.writeVs_v (bs : List Byte) : (s.writeVs bs).v = writeVsFrom s.v 0 bs := rfl
@[simp] theorem State.writeVs_i (bs : List Byte) : (s.writeVs bs).i = s.i := rfl
@[simp] theorem State.writeVs_pc (bs : List Byte) : (s.writeVs bs).pc = s.pc := rfl
@[simp] theorem State.writeVs_stack (bs : List Byte) : (s.writeVs bs).stack = s.stack := rfl
@[simp] theorem State.writeVs_sp (bs : List Byte) : (s.writeVs bs).sp = s.sp := rfl
@[simp] theorem State.writeVs_dt (bs : List Byte) : (s.writeVs bs).dt = s.dt := rfl
@[simp] theorem State.writeVs_st (bs : List Byte) : (s.writeVs bs).st = s.st := rfl
@[simp] theorem State.writeVs_run (bs : List Byte) : (s.writeVs bs).run = s.run := rfl
@[simp] theorem State.writeVs_kx (bs : List Byte) : (s.writeVs bs).kx = s.kx := rfl
@[simp] theorem State.writeVs_drawf (bs : List Byte) : (s.writeVs bs).drawf = s.drawf := rfl
@[simp] theorem State.writeVs_beep (bs : List Byte) : (s.writeVs bs).beep = s.beep := rfl
@[simp] theorem State.writeVs_steps (bs : List Byte) : (s.writeVs bs).steps = s.steps := rfl
@[simp] theorem State.writeVs_fault (bs : List Byte) : (s.writeVs bs).fault = s.fault := rfl
@[simp] theorem State.writeVs_mem (bs : List Byte) : (s.writeVs bs).mem = s.mem := rfl
@[simp] theorem State.writeVs_fb (bs : List Byte) : (s.writeVs bs).fb = s.fb := rfl
@[simp] theorem State.writeVs_keys (bs : List Byte) : (s.writeVs bs).keys = s.keys := rfl
@[simp] theorem State.writeVs_lastKey (bs : List Byte) : (s.writeVs bs).lastKey = s.lastKey := rfl
@[simp] theorem State.writeVs_draws (bs : List Byte) : (s.writeVs bs).draws = s.draws := rfl

/-! ### `State.complete` -/

@[simp] theorem State.complete_v (a : Word) : (s.complete a).v = s.v := rfl
@[simp] theorem State.complete_i (a : Word) : (s.complete a).i = s.i := rfl
@[simp] theorem State.complete_pc (a : Word) : (s.complete a).pc = a := rfl
@[simp] theorem State.complete_stack (a : Word) : (s.complete a).stack = s.stack := rfl
@[simp] theorem State.complete_sp (a : Word) : (s.complete a).sp = s.sp := rfl
@[simp] theorem State.complete_dt (a : Word) : (s.complete a).dt = s.dt := rfl
@[simp] theorem State.complete_st (a : Word) : (s.complete a).st = s.st := rfl
@[simp] theorem State.complete_run (a : Word) : (s.complete a).run = s.run := rfl
@[simp] theorem State.complete_kx (a : Word) : (s.complete a).kx = s.kx := rfl
@[simp] theorem State.complete_drawf (a : Word) : (s.complete a).drawf = s.drawf := rfl
@[simp] theorem State.complete_beep (a : Word) : (s.complete a).beep = s.beep := rfl
@[simp] theorem State.complete_steps (a : Word) : (s.complete a).steps = s.steps + 1 := rfl
@[simp] theorem State.complete_fault (a : Word) : (s.complete a).fault = s.fault := rfl
@[simp] theorem State.complete_mem (a : Word) : (s.complete a).mem = s.mem := rfl
@[simp] theorem State.complete_fb (a : Word) : (s.complete a).fb = s.fb := rfl
@[simp] theorem State.complete_keys (a : Word) : (s.complete a).keys = s.keys := rfl
@[simp] theorem State.complete_lastKey (a : Word) : (s.complete a).lastKey = s.lastKey := rfl
@[simp] theorem State.complete_draws (a : Word) : (s.complete a).draws = s.draws := rfl

/-! ### `State.advance` -/

@[simp] theorem State.advance_v : s.advance.v = s.v := rfl
@[simp] theorem State.advance_i : s.advance.i = s.i := rfl
@[simp] theorem State.advance_pc : s.advance.pc = s.pc + 2 := rfl
@[simp] theorem State.advance_stack : s.advance.stack = s.stack := rfl
@[simp] theorem State.advance_sp : s.advance.sp = s.sp := rfl
@[simp] theorem State.advance_dt : s.advance.dt = s.dt := rfl
@[simp] theorem State.advance_st : s.advance.st = s.st := rfl
@[simp] theorem State.advance_run : s.advance.run = s.run := rfl
@[simp] theorem State.advance_kx : s.advance.kx = s.kx := rfl
@[simp] theorem State.advance_drawf : s.advance.drawf = s.drawf := rfl
@[simp] theorem State.advance_beep : s.advance.beep = s.beep := rfl
@[simp] theorem State.advance_steps : s.advance.steps = s.steps + 1 := rfl
@[simp] theorem State.advance_fault : s.advance.fault = s.fault := rfl
@[simp] theorem State.advance_mem : s.advance.mem = s.mem := rfl
@[simp] theorem State.advance_fb : s.advance.fb = s.fb := rfl
@[simp] theorem State.advance_keys : s.advance.keys = s.keys := rfl
@[simp] theorem State.advance_lastKey : s.advance.lastKey = s.lastKey := rfl
@[simp] theorem State.advance_draws : s.advance.draws = s.draws := rfl

/-! ### `State.skipIf` -/

@[simp] theorem State.skipIf_v (c : Bool) : (s.skipIf c).v = s.v := rfl
@[simp] theorem State.skipIf_i (c : Bool) : (s.skipIf c).i = s.i := rfl
@[simp] theorem State.skipIf_pc (c : Bool) : (s.skipIf c).pc = if c then s.pc + 4 else s.pc + 2 := rfl
@[simp] theorem State.skipIf_stack (c : Bool) : (s.skipIf c).stack = s.stack := rfl
@[simp] theorem State.skipIf_sp (c : Bool) : (s.skipIf c).sp = s.sp := rfl
@[simp] theorem State.skipIf_dt (c : Bool) : (s.skipIf c).dt = s.dt := rfl
@[simp] theorem State.skipIf_st (c : Bool) : (s.skipIf c).st = s.st := rfl
@[simp] theorem State.skipIf_run (c : Bool) : (s.skipIf c).run = s.run := rfl
@[simp] theorem State.skipIf_kx (c : Bool) : (s.skipIf c).kx = s.kx := rfl
@[simp] theorem State.skipIf_drawf (c : Bool) : (s.skipIf c).drawf = s.drawf := rfl
@[simp] theorem State.skipIf_beep (c : Bool) : (s.skipIf c).beep = s.beep := rfl
@[simp] theorem State.skipIf_steps (c : Bool) : (s.skipIf c).steps = s.steps + 1 := rfl
@[simp] theorem State.skipIf_fault (c : Bool) : (s.skipIf c).fault = s.fault := rfl
@[simp] theorem State.skipIf_mem (c : Bool) : (s.skipIf c).mem = s.mem := rfl
@[simp] theorem State.skipIf_fb (c : Bool) : (s.skipIf c).fb = s.fb := rfl
@[simp] theorem State.skipIf_keys (c : Bool) : (s.skipIf c).keys = s.keys := rfl
@[simp] theorem State.skipIf_lastKey (c : Bool) : (s.skipIf c).lastKey = s.lastKey := rfl
@[simp] theorem State.skipIf_draws (c : Bool) : (s.skipIf c).draws = s.draws := rfl

/-! ### `State.raiseFault` -/

@[simp] theorem State.raiseFault_v (k : FaultKind) (op : Option Word) : (s.raiseFault k op).v = s.v := rfl
@[simp] theorem State.raiseFault_i (k : FaultKind) (op : Option Word) : (s.raiseFault k op).i = s.i := rfl
@[simp] theorem State.raiseFault_pc (k : FaultKind) (op : Option Word) : (s.raiseFault k op).pc = s.pc := rfl
@[simp] theorem State.raiseFault_stack (k : FaultKind) (op : Option Word) : (s.raiseFault k op).stack = s.stack := rfl
@[simp] theorem State.raiseFault_sp (k : FaultKind) (op : Option Word) : (s.raiseFault k op).sp = s.sp := rfl
@[simp] theorem State.raiseFault_dt (k : FaultKind) (op : Option Word) : (s.raiseFault k op).dt = s.dt := rfl
@[simp] theorem State.raiseFault_st (k : FaultKind) (op : Option Word) : (s.raiseFault k op).st = s.st := rfl
@[simp] theorem State.raiseFault_run (k : FaultKind) (op : Option Word) : (s.raiseFault k op).run = .halted := rfl
@[simp] theorem State.raiseFault_kx (k : FaultKind) (op : Option Word) : (s.raiseFault k op).kx = s.kx := rfl
@[simp] theorem State.raiseFault_drawf (k : FaultKind) (op : Option Word) : (s.raiseFault k op).drawf = s.drawf := rfl
@[simp] theorem State.raiseFault_beep (k : FaultKind) (op : Option Word) : (s.raiseFault k op).beep = s.beep := rfl
@[simp] theorem State.raiseFault_steps (k : FaultKind) (op : Option Word) : (s.raiseFault k op).steps = s.steps := rfl
@[simp] theorem State.raiseFault_fault (k : FaultKind) (op : Option Word) : (s.raiseFault k op).fault = some ⟨k, op, s.pc, s.steps⟩ := rfl
@[simp] theorem State.raiseFault_mem (k : FaultKind) (op : Option Word) : (s.raiseFault k op).mem = s.mem := rfl
@[simp] theorem State.raiseFault_fb (k : FaultKind) (op : Option Word) : (s.raiseFault k op).fb = s.fb := rfl
@[simp] theorem State.raiseFault_keys (k : FaultKind) (op : Option Word) : (s.raiseFault k op).keys = s.keys := rfl
@[simp] theorem State.raiseFault_lastKey (k : FaultKind) (op : Option Word) : (s.raiseFault k op).lastKey = s.lastKey := rfl
@[simp] theorem State.raiseFault_draws (k : FaultKind) (op : Option Word) : (s.raiseFault k op).draws = s.draws := rfl

/-! ### `State.raiseBy` -/

@[simp] theorem State.raiseBy_v (k : FaultKind) (j : Instr) : (s.raiseBy k j).v = s.v := rfl
@[simp] theorem State.raiseBy_i (k : FaultKind) (j : Instr) : (s.raiseBy k j).i = s.i := rfl
@[simp] theorem State.raiseBy_pc (k : FaultKind) (j : Instr) : (s.raiseBy k j).pc = s.pc := rfl
@[simp] theorem State.raiseBy_stack (k : FaultKind) (j : Instr) : (s.raiseBy k j).stack = s.stack := rfl
@[simp] theorem State.raiseBy_sp (k : FaultKind) (j : Instr) : (s.raiseBy k j).sp = s.sp := rfl
@[simp] theorem State.raiseBy_dt (k : FaultKind) (j : Instr) : (s.raiseBy k j).dt = s.dt := rfl
@[simp] theorem State.raiseBy_st (k : FaultKind) (j : Instr) : (s.raiseBy k j).st = s.st := rfl
@[simp] theorem State.raiseBy_run (k : FaultKind) (j : Instr) : (s.raiseBy k j).run = .halted := rfl
@[simp] theorem State.raiseBy_kx (k : FaultKind) (j : Instr) : (s.raiseBy k j).kx = s.kx := rfl
@[simp] theorem State.raiseBy_drawf (k : FaultKind) (j : Instr) : (s.raiseBy k j).drawf = s.drawf := rfl
@[simp] theorem State.raiseBy_beep (k : FaultKind) (j : Instr) : (s.raiseBy k j).beep = s.beep := rfl
@[simp] theorem State.raiseBy_steps (k : FaultKind) (j : Instr) : (s.raiseBy k j).steps = s.steps := rfl
@[simp] theorem State.raiseBy_fault (k : FaultKind) (j : Instr) : (s.raiseBy k j).fault = some ⟨k, some (encode j), s.pc, s.steps⟩ := rfl
@[simp] theorem State.raiseBy_mem (k : FaultKind) (j : Instr) : (s.raiseBy k j).mem = s.mem := rfl
@[simp] theorem State.raiseBy_fb (k : FaultKind) (j : Instr) : (s.raiseBy k j).fb = s.fb := rfl
@[simp] theorem State.raiseBy_keys (k : FaultKind) (j : Instr) : (s.raiseBy k j).keys = s.keys := rfl
@[simp] theorem State.raiseBy_lastKey (k : FaultKind) (j : Instr) : (s.raiseBy k j).lastKey = s.lastKey := rfl
@[simp] theorem State.raiseBy_draws (k : FaultKind) (j : Instr) : (s.raiseBy k j).draws = s.draws := rfl

/-! ### `State.initMachine` -/

@[simp] theorem State.initMachine_v : s.initMachine.v = State.reset.v := rfl
@[simp] theorem State.initMachine_i : s.initMachine.i = State.reset.i := rfl
@[simp] theorem State.initMachine_pc : s.initMachine.pc = State.reset.pc := rfl
@[simp] theorem State.initMachine_stack : s.initMachine.stack = State.reset.stack := rfl
@[simp] theorem State.initMachine_sp : s.initMachine.sp = State.reset.sp := rfl
@[simp] theorem State.initMachine_dt : s.initMachine.dt = State.reset.dt := rfl
@[simp] theorem State.initMachine_st : s.initMachine.st = State.reset.st := rfl
@[simp] theorem State.initMachine_run : s.initMachine.run = State.reset.run := rfl
@[simp] theorem State.initMachine_kx : s.initMachine.kx = State.reset.kx := rfl
@[simp] theorem State.initMachine_drawf : s.initMachine.drawf = State.reset.drawf := rfl
@[simp] theorem State.initMachine_beep : s.initMachine.beep = State.reset.beep := rfl
@[simp] theorem State.initMachine_steps : s.initMachine.steps = State.reset.steps := rfl
@[simp] theorem State.initMachine_fault : s.initMachine.fault = State.reset.fault := rfl
@[simp] theorem State.initMachine_mem : s.initMachine.mem = State.reset.mem := rfl
@[simp] theorem State.initMachine_fb : s.initMachine.fb = State.reset.fb := rfl
@[simp] theorem State.initMachine_keys : s.initMachine.keys = s.keys := rfl
@[simp] theorem State.initMachine_lastKey : s.initMachine.lastKey = s.lastKey := rfl
@[simp] theorem State.initMachine_draws : s.initMachine.draws = s.draws := rfl

/-! ### `State.tickTimers` -/

@[simp] theorem State.tickTimers_v : s.tickTimers.v = s.v := rfl
@[simp] theorem State.tickTimers_i : s.tickTimers.i = s.i := rfl
@[simp] theorem State.tickTimers_pc : s.tickTimers.pc = s.pc := rfl
@[simp] theorem State.tickTimers_stack : s.tickTimers.stack = s.stack := rfl
@[simp] theorem State.tickTimers_sp : s.tickTimers.sp = s.sp := rfl
@[simp] theorem State.tickTimers_dt : s.tickTimers.dt = countDown s.dt := rfl
@[simp] theorem State.tickTimers_st : s.tickTimers.st = countDown s.st := rfl
@[simp] theorem State.tickTimers_run : s.tickTimers.run = s.run := rfl
@[simp] theorem State.tickTimers_kx : s.tickTimers.kx = s.kx := rfl
@[simp] theorem State.tickTimers_drawf : s.tickTimers.drawf = false := rfl
@[simp] theorem State.tickTimers_beep : s.tickTimers.beep = (countDown s.st != 0) := rfl
@[simp] theorem State.tickTimers_steps : s.tickTimers.steps = s.steps := rfl
@[simp] theorem State.tickTimers_fault : s.tickTimers.fault = s.fault := rfl
@[simp] theorem State.tickTimers_mem : s.tickTimers.mem = s.mem := rfl
@[simp] theorem State.tickTimers_fb : s.tickTimers.fb = s.fb := rfl
@[simp] theorem State.tickTimers_keys : s.tickTimers.keys = s.keys := rfl
@[simp] theorem State.tickTimers_lastKey : s.tickTimers.lastKey = s.lastKey := rfl
@[simp] theorem State.tickTimers_draws : s.tickTimers.draws = s.draws := rfl

/-! ### `State.pressKey` -/

@[simp] theorem State.pressKey_v (k : Nibble) : (s.pressKey k).v = s.v := rfl
@[simp] theorem State.pressKey_i (k : Nibble) : (s.pressKey k).i = s.i := rfl
@[simp] theorem State.pressKey_pc (k : Nibble) : (s.pressKey k).pc = s.pc := rfl
@[simp] theorem State.pressKey_stack (k : Nibble) : (s.pressKey k).stack = s.stack := rfl
@[simp] theorem State.pressKey_sp (k : Nibble) : (s.pressKey k).sp = s.sp := rfl
@[simp] theorem State.pressKey_dt (k : Nibble) : (s.pressKey k).dt = s.dt := rfl
@[simp] theorem State.pressKey_st (k : Nibble) : (s.pressKey k).st = s.st := rfl
@[simp] theorem State.pressKey_run (k : Nibble) : (s.pressKey k).run = s.run := rfl
@[simp] theorem State.pressKey_kx (k : Nibble) : (s.pressKey k).kx = s.kx := rfl
@[simp] theorem State.pressKey_drawf (k : Nibble) : (s.pressKey k).drawf = s.drawf := rfl
@[simp] theorem State.pressKey_beep (k : Nibble) : (s.pressKey k).beep = s.beep := rfl
@[simp] theorem State.pressKey_steps (k : Nibble) : (s.pressKey k).steps = s.steps := rfl
@[simp] theorem State.pressKey_fault (k : Nibble) : (s.pressKey k).fault = s.fault := rfl
@[simp] theorem State.pressKey_mem (k : Nibble) : (s.pressKey k).mem = s.mem := rfl
@[simp] theorem State.pressKey_fb (k : Nibble) : (s.pressKey k).fb = s.fb := rfl
@[simp] theorem State.pressKey_keys (k : Nibble) : (s.pressKey k).keys = s.keys.set k.toNat true k.isLt := rfl
@[simp] theorem State.pressKey_lastKey (k : Nibble) : (s.pressKey k).lastKey = some k := rfl
@[simp] theorem State.pressKey_draws (k : Nibble) : (s.pressKey k).draws = s.draws := rfl

/-! ### `State.endWait` -/

@[simp] theorem State.endWait_v (k : Nibble) : (s.endWait k).v = s.v.set s.kx.toNat (k.setWidth 8) s.kx.isLt := rfl
@[simp] theorem State.endWait_i (k : Nibble) : (s.endWait k).i = s.i := rfl
@[simp] theorem State.endWait_pc (k : Nibble) : (s.endWait k).pc = s.pc := rfl
@[simp] theorem State.endWait_stack (k : Nibble) : (s.endWait k).stack = s.stack := rfl
@[simp] theorem State.endWait_sp (k : Nibble) : (s.endWait k).sp = s.sp := rfl
@[simp] theorem State.endWait_dt (k : Nibble) : (s.endWait k).dt = s.dt := rfl
@[simp] theorem State.endWait_st (k : Nibble) : (s.endWait k).st = s.st := rfl
@[simp] theorem State.endWait_run (k : Nibble) : (s.endWait k).run = .running := rfl
@[simp] theorem State.endWait_kx (k : Nibble) : (s.endWait k).kx = s.kx := rfl
@[simp] theorem State.endWait_drawf (k : Nibble) : (s.endWait k).drawf = s.drawf := rfl
@[simp] theorem State.endWait_beep (k : Nibble) : (s.endWait k).beep = s.beep := rfl
@[simp] theorem State.endWait_steps (k : Nibble) : (s.endWait k).steps = s.steps := rfl
@[simp] theorem State.endWait_fault (k : Nibble) : (s.endWait k).fault = s.fault := rfl
@[simp] theorem State.endWait_mem (k : Nibble) : (s.endWait k).mem = s.mem := rfl
@[simp] theorem State.endWait_fb (k : Nibble) : (s.endWait k).fb = s.fb := rfl
@[simp] theorem State.endWait_keys (k : Nibble) : (s.endWait k).keys = s.keys := rfl
@[simp] theorem State.endWait_lastKey (k : Nibble) : (s.endWait k).lastKey = s.lastKey := rfl
@[simp] theorem State.endWait_draws (k : Nibble) : (s.endWait k).draws = s.draws := rfl

end Sys2Proof.Machine
end

