-- ==== Sys2Proof/Laws/Registers.lean ====
section
/-! SUPPORT. Reading a general register after each update of the state. -/

namespace Sys2Proof.Machine

variable (s : State)

/-- Reading a register depends on the register file alone. -/
theorem State.readV_of_v {s t : State} (h : s.v = t.v) (r : Nibble) : s.readV r = t.readV r := by
  simp only [State.readV, h]

/-- A register read after a register write: the value written, or what stood there. -/
@[simp] theorem State.readV_writeV (x r : Nibble) (b : Byte) :
    (s.writeV x b).readV r = if r = x then b else s.readV r := by
  simp only [State.readV, State.writeV_v, Vector.getElem_set]
  by_cases h : r = x
  · simp [h]
  · have : ¬ x.toNat = r.toNat := fun e => h (BitVec.eq_of_toNat_eq e.symm)
    simp [h, this]

@[simp] theorem State.readV_writeVF (r : Nibble) (f : Byte) :
    (s.writeVF f).readV r = if r = vf then f else s.readV r :=
  s.readV_writeV vf r f

/-- The result wins over the flag (42_arith_logic.md R120 c). -/
@[simp] theorem State.readV_writeFlagged (x r : Nibble) (f b : Byte) :
    (s.writeFlagged x f b).readV r = if r = x then b else if r = vf then f else s.readV r := by
  simp only [State.writeFlagged, State.readV_writeV, State.readV_writeVF]

/-! Updates that leave the register file alone -/

@[simp] theorem State.readV_writeI (a : Word) (r : Nibble) : (s.writeI a).readV r = s.readV r := rfl
@[simp] theorem State.readV_writeDT (b : Byte) (r : Nibble) : (s.writeDT b).readV r = s.readV r := rfl
@[simp] theorem State.readV_writeST (b : Byte) (r : Nibble) : (s.writeST b).readV r = s.readV r := rfl
@[simp] theorem State.readV_writeMem (m : List Host.Cell) (r : Nibble) :
    (s.writeMem m).readV r = s.readV r := rfl
@[simp] theorem State.readV_writeFB (f : List Host.Cell) (r : Nibble) :
    (s.writeFB f).readV r = s.readV r := rfl
@[simp] theorem State.readV_raiseDraw (r : Nibble) : s.raiseDraw.readV r = s.readV r := rfl
@[simp] theorem State.readV_waitKey (x r : Nibble) : (s.waitKey x).readV r = s.readV r := rfl
@[simp] theorem State.readV_countDraw (r : Nibble) : s.countDraw.readV r = s.readV r := rfl
@[simp] theorem State.readV_complete (a : Word) (r : Nibble) : (s.complete a).readV r = s.readV r := rfl
@[simp] theorem State.readV_advance (r : Nibble) : s.advance.readV r = s.readV r := rfl
@[simp] theorem State.readV_skipIf (c : Bool) (r : Nibble) : (s.skipIf c).readV r = s.readV r := rfl
@[simp] theorem State.readV_raiseFault (k : FaultKind) (op : Option Word) (r : Nibble) :
    (s.raiseFault k op).readV r = s.readV r := rfl
@[simp] theorem State.readV_raiseBy (k : FaultKind) (j : Instr) (r : Nibble) :
    (s.raiseBy k j).readV r = s.readV r := rfl

/-! Ranges of registers -/

/-- Writing registers from `k` up leaves the others, and each takes its byte. -/
theorem getElem_writeVsFrom (bs : List Byte) : ∀ (v : Vector Byte 16) (k j : Nat) (hj : j < 16),
    (writeVsFrom v k bs)[j] =
      if h : k ≤ j ∧ j < k + bs.length then bs[j - k]'(by omega) else v[j] := by
  induction bs with
  | nil => intro v k j hj; rw [dif_neg (by simp)]; rfl
  | cons b rest ih =>
    intro v k j hj
    simp only [writeVsFrom, ih, List.length_cons]
    by_cases hk : k = j
    · subst hk
      simp
    · by_cases h : k + 1 ≤ j ∧ j < k + 1 + rest.length
      · rw [dif_pos h, dif_pos (by omega)]
        have e : j - k = (j - (k + 1)) + 1 := by omega
        simp only [e, List.getElem_cons_succ]
      · rw [dif_neg h, dif_neg (by omega)]
        simp [hk]

/-- `V[k]` after loading bytes from V0 up (44_index_memory.md R146). -/
theorem State.readV_writeVs (bs : List Byte) (r : Nibble) :
    (s.writeVs bs).readV r = if h : r.toNat < bs.length then bs[r.toNat] else s.readV r := by
  simp only [State.readV, State.writeVs_v, getElem_writeVsFrom]
  simp

/-- The bytes of `V[0..x]`: there are `x + 1`. -/
@[simp] theorem State.length_readVs (x : Nibble) : (s.readVs x).length = x.toNat + 1 := by
  have := x.isLt
  simp only [State.readVs, List.length_take, Vector.length_toList]
  omega

/-- The bytes of `V[0..x]`: byte `k` is `V[k]` (44_index_memory.md R145). -/
theorem State.getElem_readVs (x k : Nibble) (h : k.toNat < (s.readVs x).length) :
    (s.readVs x)[k.toNat] = s.readV k := by
  simp [State.readVs, State.readV]

end Sys2Proof.Machine
end

