-- ==== Sys2Proof/Laws/Ops.lean ====
section
/-! SUPPORT. For each shared operation, what it answers, said once. -/

namespace Sys2Proof.Machine

/-! ## The call stack -/

/-- A push onto a stack with a free slot (10_state.md R27). -/
theorem State.push_eq_some {s : State} (a : Word) (h : s.sp.val < 16) :
    s.push a = some { s with stack := s.stack.set s.sp.val a h, sp := ⟨s.sp.val + 1, Nat.succ_lt_succ h⟩ } := by
  rw [State.push, dif_pos h]

/-- A push onto a full stack. -/
theorem State.push_eq_none {s : State} (a : Word) (h : s.sp.val = 16) : s.push a = none := by
  rw [State.push, dif_neg (by omega)]

/-- A push answers none, or a state in which only the stack and its pointer moved. -/
theorem State.push_cases (s : State) (a : Word) :
    (s.sp.val = 16 ∧ s.push a = none) ∨
      ∃ (h : s.sp.val < 16) (t : State), s.push a = some t ∧ t.sp.val = s.sp.val + 1 ∧
        t.stack = s.stack.set s.sp.val a h ∧ t = { s with stack := t.stack, sp := t.sp } := by
  rcases Nat.lt_or_ge s.sp.val 16 with h | h
  · exact .inr ⟨h, _, State.push_eq_some a h, rfl, rfl, rfl⟩
  · have h16 : s.sp.val = 16 := Nat.le_antisymm (Nat.lt_succ_iff.mp s.sp.isLt) h
    exact .inl ⟨h16, State.push_eq_none a h16⟩

/-- A pop from an empty stack. -/
theorem State.pop_eq_none {s : State} (h : s.sp.val = 0) : s.pop = none := by
  rw [State.pop, dif_neg (by omega)]

/-- A pop answers none, or the top slot and a state in which only the pointer moved (10_state.md R27). -/
theorem State.pop_cases (s : State) :
    (s.sp.val = 0 ∧ s.pop = none) ∨
      ∃ (j : Fin 16) (t : State), s.sp.val = j.val + 1 ∧ s.pop = some (s.stack[j], t) ∧ t.sp.val = j.val ∧
        t = { s with sp := t.sp } := by
  rcases Nat.eq_zero_or_pos s.sp.val with h | h
  · exact .inl ⟨h, State.pop_eq_none h⟩
  · have hj : s.sp.val - 1 < 16 := by have := s.sp.isLt; omega
    refine .inr ⟨⟨s.sp.val - 1, hj⟩, { s with sp := ⟨s.sp.val - 1, by omega⟩ }, by simp; omega, ?_, rfl, rfl⟩
    rw [State.pop, dif_pos h]
    rfl

/-! ## Memory at I -/

/-- A load at I answers the bytes in range, or none (20_memory.md R57). -/
theorem State.loadI_cases (s : State) (n : Nat) :
    ((n = 0 ∨ s.i.toNat + n ≤ 4096) ∧ s.loadI n = some (Memory.readBytes s.mem s.i.toNat n)) ∨
      (n ≠ 0 ∧ 4096 < s.i.toNat + n ∧ s.loadI n = none) := by
  by_cases h : n = 0 ∨ s.i.toNat + n ≤ 4096
  · exact .inl ⟨h, by rw [State.loadI, if_pos (Memory.inRange_iff.mpr h)]⟩
  · refine .inr ⟨by omega, by omega, ?_⟩
    rw [State.loadI, if_neg (fun e => h (Memory.inRange_iff.mp e))]

/-- A store at I answers the state with the bytes stored, or none (20_memory.md R57). -/
theorem State.storeI_cases (s : State) (bs : List Byte) :
    ((bs.length = 0 ∨ s.i.toNat + bs.length ≤ 4096) ∧
        s.storeI bs = some (s.writeMem (Memory.writeBytes s.mem s.i.toNat bs))) ∨
      (bs.length ≠ 0 ∧ 4096 < s.i.toNat + bs.length ∧ s.storeI bs = none) := by
  by_cases h : bs.length = 0 ∨ s.i.toNat + bs.length ≤ 4096
  · exact .inl ⟨h, by rw [State.storeI, if_pos (Memory.inRange_iff.mpr h)]⟩
  · refine .inr ⟨by omega, by omega, ?_⟩
    rw [State.storeI, if_neg (fun e => h (Memory.inRange_iff.mp e))]

@[simp] theorem length_bcdDigits (a : Byte) : (bcdDigits a).length = 3 := rfl

/-- The key of a byte is pressed: it exists, and its entry is true (47_input.md R166). -/
theorem State.keyPressed_iff {s : State} {b : Byte} :
    s.keyPressed b = true ↔ ∃ k : Fin 16, k.val = b.toNat ∧ s.keys[k] = true := by
  by_cases h : b.toNat < 16
  · rw [State.keyPressed, dif_pos h]
    refine ⟨fun e => ⟨⟨b.toNat, h⟩, rfl, e⟩, fun ⟨k, hk, e⟩ => ?_⟩
    have : k = ⟨b.toNat, h⟩ := Fin.ext hk
    rw [this] at e
    exact e
  · rw [State.keyPressed, dif_neg h]
    refine ⟨fun e => absurd e (by simp), fun ⟨k, hk, _⟩ => absurd k.isLt (by omega)⟩

/-! ## Fetch -/

/-- A fetch with PC inside memory (20_memory.md R55, R57). -/
theorem State.fetch_eq_some {s : State} (h : s.pc.toNat ≤ 0xFFE) :
    s.fetch = some (Memory.read s.mem s.pc.toNat ++ Memory.read s.mem (s.pc.toNat + 1)) := by
  rw [State.fetch, if_pos h]
  rfl

/-- A fetch with PC beyond it. -/
theorem State.fetch_eq_none {s : State} (h : 0xFFE < s.pc.toNat) : s.fetch = none := by
  rw [State.fetch, if_neg (by omega)]

/-- An opcode placed under PC is the one fetched. -/
theorem State.fetch_placeOpcode {s : State} (op : Word) (h : s.pc.toNat ≤ 0xFFE) :
    (s.placeOpcode op).fetch = some op := by
  have hpc : (s.placeOpcode op).pc = s.pc := by rw [State.placeOpcode, if_pos h]
  have hmem : (s.placeOpcode op).mem = Memory.writeBytes s.mem s.pc.toNat [opcodeHi op, opcodeLo op] := by
    rw [State.placeOpcode, if_pos h]
  have h0 := Memory.read_writeBytes_inside (m := s.mem) (a := s.pc.toNat) (k := 0)
    (bs := [opcodeHi op, opcodeLo op]) (by simp)
  have h1 := Memory.read_writeBytes_inside (m := s.mem) (a := s.pc.toNat) (k := 1)
    (bs := [opcodeHi op, opcodeLo op]) (by simp)
  rw [State.fetch_eq_some (by rw [hpc]; exact h), hpc, hmem]
  simp only [Nat.add_zero] at h0
  rw [h0, h1]
  exact congrArg some (opcodeOfBytes_hi_lo op)

/-! ## Timers -/

/-- The countdown, as a number (10_state.md R28). -/
@[simp] theorem toNat_countDown (b : Byte) : (countDown b).toNat = b.toNat - 1 := by
  rw [countDown]
  split
  · rename_i h
    simp [h]
  · rename_i h
    have : b.toNat ≠ 0 := fun e => h (BitVec.eq_of_toNat_eq e)
    have hb := b.isLt
    rw [BitVec.toNat_sub]
    simp
    omega

end Sys2Proof.Machine
end

