-- ==== Sys2Proof/Laws/Display.lean ====
section
/-! SUPPORT. Drawing a sprite as flipping a list of distinct pixels: what the pixel buffer and the collision become
(46_display.md R157). -/

namespace Sys2Proof.Machine

/-- Flip the pixel byte at index `p` and note a lit one. -/
def flipPixel (d : Drawing) (p : Nat) : Drawing :=
  (d.1 || Screen.read d.2 p == 1, Screen.write d.2 p (Screen.read d.2 p ^^^ 1))

/-- The pixel indexes under the 1 bits of one sprite row. -/
def rowPixels (x0 y : Nat) (row : Byte) : List Nat :=
  ((List.range 8).filter (fun c => row.getLsbD (7 - c))).map (fun c => Screen.index (x0 + c) y)

/-- The pixel indexes under the 1 bits of a sprite. -/
def spritePixels (x0 y : Nat) : List Byte → List Nat
  | [] => []
  | row :: rest => rowPixels x0 y row ++ spritePixels x0 (y + 1) rest

theorem drawRow_eq (x0 y : Nat) (row : Byte) (d : Drawing) :
    drawRow x0 y row d = (rowPixels x0 y row).foldl flipPixel d := by
  rw [rowPixels, List.foldl_map, List.foldl_filter]
  rfl

theorem drawRows_eq (x0 : Nat) (rows : List Byte) : ∀ (y : Nat) (d : Drawing),
    drawRows x0 y rows d = (spritePixels x0 y rows).foldl flipPixel d := by
  induction rows with
  | nil => exact fun _ _ => rfl
  | cons row rest ih =>
    intro y d
    rw [drawRows, spritePixels, List.foldl_append, ih, drawRow_eq]

/-- Flipping distinct pixels: each of them is flipped, every other byte stays. -/
theorem read_foldl_flip (l : List Nat) (hl : l.Nodup) : ∀ (d : Drawing) (p : Nat),
    Screen.read (l.foldl flipPixel d).2 p =
      if p ∈ l then Screen.read d.2 p ^^^ 1 else Screen.read d.2 p := by
  induction l with
  | nil => simp
  | cons q rest ih =>
    intro d p
    obtain ⟨hq, hrest⟩ := List.nodup_cons.mp hl
    rw [List.foldl_cons, ih hrest, flipPixel, Screen.read_write]
    by_cases hp : p = q
    · subst hp
      simp [hq]
    · simp [hp]

/-- Flipping distinct pixels: a collision is a lit pixel among them. -/
theorem fst_foldl_flip (l : List Nat) (hl : l.Nodup) : ∀ d : Drawing,
    (l.foldl flipPixel d).1 = (d.1 || l.any (fun p => Screen.read d.2 p == 1)) := by
  induction l with
  | nil => simp
  | cons q rest ih =>
    intro d
    obtain ⟨hq, hrest⟩ := List.nodup_cons.mp hl
    rw [List.foldl_cons, ih hrest, List.any_cons, ← Bool.or_assoc]
    congr 1
    rw [Bool.eq_iff_iff, List.any_eq_true, List.any_eq_true]
    refine exists_congr fun p => and_congr_right fun hp => ?_
    rw [flipPixel, Screen.read_write, if_neg (fun e : p = q => hq (e ▸ hp))]

/-- Flipping pixels of the buffer keeps its canonical form. -/
theorem wf_foldl_flip (l : List Nat) (hl : ∀ p ∈ l, p < Screen.size) : ∀ d : Drawing,
    Screen.wf d.2 = true → Screen.wf (l.foldl flipPixel d).2 = true := by
  induction l with
  | nil => exact fun _ h => h
  | cons q rest ih =>
    intro d h
    refine ih (fun p hp => hl p (List.mem_cons_of_mem _ hp)) _ ?_
    refine Screen.wf_write h (hl q List.mem_cons_self) ?_
    rcases Screen.read_zero_or_one h q with e | e <;> rw [e] <;> decide

theorem mem_rowPixels {x0 y : Nat} {row : Byte} {p : Nat} :
    p ∈ rowPixels x0 y row ↔ ∃ c, c < 8 ∧ row.getLsbD (7 - c) = true ∧ p = Screen.index (x0 + c) y := by
  simp only [rowPixels, List.mem_map, List.mem_filter, List.mem_range, and_assoc, eq_comm]

/-- Which pixels lie under a sprite. -/
theorem mem_spritePixels {x0 : Nat} {rows : List Byte} {p : Nat} : ∀ {y : Nat},
    p ∈ spritePixels x0 y rows ↔ ∃ r, ∃ hr : r < rows.length, ∃ c, c < 8 ∧
      (rows[r]).getLsbD (7 - c) = true ∧ p = Screen.index (x0 + c) (y + r) := by
  induction rows with
  | nil => simp [spritePixels]
  | cons row rest ih =>
    intro y
    rw [spritePixels, List.mem_append, mem_rowPixels, ih]
    constructor
    · rintro (⟨c, h1, h2, h3⟩ | ⟨r, hr, c, h1, h2, h3⟩)
      · exact ⟨0, by simp, c, h1, h2, h3⟩
      · exact ⟨r + 1, by simpa using hr, c, h1, by simpa using h2, by rw [h3]; congr 1; omega⟩
    · rintro ⟨r, hr, c, h1, h2, h3⟩
      cases r with
      | zero => exact .inl ⟨c, h1, h2, h3⟩
      | succ r => exact .inr ⟨r, by simpa using hr, c, h1, by simpa using h2, by rw [h3]; congr 1; omega⟩

theorem spritePixels_lt {x0 y : Nat} {rows : List Byte} : ∀ p ∈ spritePixels x0 y rows, p < Screen.size := by
  intro p hp
  obtain ⟨r, hr, c, -, -, rfl⟩ := mem_spritePixels.mp hp
  exact Screen.index_lt _ _

theorem nodup_rowPixels (x0 y : Nat) (row : Byte) : (rowPixels x0 y row).Nodup := by
  refine List.Nodup.map_on (fun a ha b hb e => ?_) (List.Nodup.filter _ List.nodup_range)
  have ha := List.mem_range.mp (List.mem_filter.mp ha).1
  have hb := List.mem_range.mp (List.mem_filter.mp hb).1
  simp only [Screen.index, screenWidth, screenHeight] at e
  omega

/-- A sprite of at most as many rows as the screen visits no pixel twice (46_display.md R157). -/
theorem nodup_spritePixels (x0 : Nat) (rows : List Byte) : ∀ y : Nat, rows.length ≤ screenHeight →
    (spritePixels x0 y rows).Nodup := by
  induction rows with
  | nil => exact fun _ _ => List.nodup_nil
  | cons row rest ih =>
    intro y h
    rw [spritePixels, List.nodup_append]
    refine ⟨nodup_rowPixels x0 y row, ih (y + 1) (by simp at h; omega), fun a ha b hb e => ?_⟩
    obtain ⟨c, hc, -, h1⟩ := mem_rowPixels.mp ha
    obtain ⟨r, hr, c', hc', -, h2⟩ := mem_spritePixels.mp hb
    rw [h1, h2] at e
    simp only [Screen.index, screenWidth, screenHeight, List.length_cons] at e h
    omega

end Sys2Proof.Machine
end

