-- ==== Sys2Proof/Laws/PerInstr.lean ====
section
/-! SUPPORT. Per instruction: its opcode carries the fixed bits of its row of the opcode map
(30_encoding.md R72, R74). -/

namespace Sys2Proof.Laws

theorem formNNN_and_mask (f : Nibble) (nnn : Addr12) : formNNN f nnn &&& 0xF000#16 = formNNN f 0 := by
  refine BitVec.eq_of_getLsbD_eq fun b hb => ?_
  simp only [formNNN, BitVec.getLsbD_and, BitVec.getLsbD_append]
  have key : ∀ k : Fin 16, (0xF000#16).getLsbD k = decide (12 ≤ k.val) := by decide
  have hk := key ⟨b, hb⟩
  simp only at hk
  rw [hk]
  by_cases h : b < 12
  · simp [h]
  · simp [h, show 12 ≤ b by omega]

theorem formXNN_and_mask (f x : Nibble) (nn : Byte) : formXNN f x nn &&& 0xF000#16 = formXNN f 0 0 := by
  refine BitVec.eq_of_getLsbD_eq fun b hb => ?_
  simp only [formXNN, BitVec.getLsbD_and, BitVec.getLsbD_append]
  have key : ∀ k : Fin 16, (0xF000#16).getLsbD k = decide (12 ≤ k.val) := by decide
  have hk := key ⟨b, hb⟩
  simp only at hk
  rw [hk]
  by_cases h : b < 12
  · by_cases h8 : b < 8
    · simp [h, h8]
    · simp [h, h8, show b - 8 < 4 by omega]
  · simp [show ¬ b < 8 by omega, show ¬ b - 8 < 4 by omega, show 12 ≤ b by omega]

theorem formXNN_and_keyMask (f x : Nibble) (nn : Byte) : formXNN f x nn &&& 0xF0FF#16 = formXNN f 0 nn := by
  refine BitVec.eq_of_getLsbD_eq fun b hb => ?_
  simp only [formXNN, BitVec.getLsbD_and, BitVec.getLsbD_append]
  have key : ∀ k : Fin 16, (0xF0FF#16).getLsbD k = (decide (k.val < 8) || decide (12 ≤ k.val)) := by decide
  have hk := key ⟨b, hb⟩
  simp only at hk
  rw [hk]
  by_cases h8 : b < 8
  · simp [h8]
  · by_cases h : b < 12
    · simp [h, h8, show b - 8 < 4 by omega]
    · simp [h8, show ¬ b - 8 < 4 by omega, show 12 ≤ b by omega]

theorem formXYN_and_keyMask (f x y n : Nibble) : formXYN f x y n &&& 0xF00F#16 = formXYN f 0 0 n := by
  refine BitVec.eq_of_getLsbD_eq fun b hb => ?_
  simp only [formXYN, BitVec.getLsbD_and, BitVec.getLsbD_append]
  have key : ∀ k : Fin 16, (0xF00F#16).getLsbD k = (decide (k.val < 4) || decide (12 ≤ k.val)) := by decide
  have hk := key ⟨b, hb⟩
  simp only at hk
  rw [hk]
  by_cases h4 : b < 4
  · simp [h4]
  · by_cases h8 : b < 8
    · simp [h4, show b - 4 < 4 by omega, show ¬ 12 ≤ b by omega]
    · by_cases h : b < 12
      · simp [h4, show ¬ b - 4 < 4 by omega, show b - 4 - 4 < 4 by omega, show ¬ 12 ≤ b by omega]
      · simp [h4, show ¬ b - 4 < 4 by omega, show ¬ b - 4 - 4 < 4 by omega, show 12 ≤ b by omega]

theorem formXYN_eq_formXNN (f x y n : Nibble) : formXYN f x y n = formXNN f x (y ++ n) := by
  refine BitVec.eq_of_getLsbD_eq fun b hb => ?_
  simp only [formXYN, formXNN, BitVec.getLsbD_append]
  by_cases h4 : b < 4
  · simp [h4, show b < 8 by omega]
  · by_cases h8 : b < 8
    · simp [h4, h8, show b - 4 < 4 by omega]
    · simp [h4, h8, show ¬ b - 4 < 4 by omega, show b - 4 - 4 = b - 8 by omega]

theorem formXYN_and_mask (f x y n : Nibble) : formXYN f x y n &&& 0xF000#16 = formXNN f 0 0 := by
  rw [formXYN_eq_formXNN, formXNN_and_mask]

namespace FixedBits

/-- The opcode of the instruction fits the instruction's row. -/
def Statement (i : Instr) : Prop := i.opcodeRow.fits (encode i)

theorem sys (nnn : Addr12) : Statement (.sys nnn) := (formNNN_and_mask _ _).trans rfl
theorem cls : Statement .cls := rfl
theorem ret : Statement .ret := rfl
theorem jp (nnn : Addr12) : Statement (.jp nnn) := (formNNN_and_mask _ _).trans rfl
theorem call (nnn : Addr12) : Statement (.call nnn) := (formNNN_and_mask _ _).trans rfl
theorem seImm (x : Nibble) (nn : Byte) : Statement (.seImm x nn) := (formXNN_and_mask _ _ _).trans rfl
theorem sneImm (x : Nibble) (nn : Byte) : Statement (.sneImm x nn) := (formXNN_and_mask _ _ _).trans rfl
theorem seReg (x y : Nibble) : Statement (.seReg x y) := (formXYN_and_keyMask _ _ _ _).trans rfl
theorem ldImm (x : Nibble) (nn : Byte) : Statement (.ldImm x nn) := (formXNN_and_mask _ _ _).trans rfl
theorem addImm (x : Nibble) (nn : Byte) : Statement (.addImm x nn) := (formXNN_and_mask _ _ _).trans rfl
theorem ldReg (x y : Nibble) : Statement (.ldReg x y) := (formXYN_and_keyMask _ _ _ _).trans rfl
theorem orReg (x y : Nibble) : Statement (.orReg x y) := (formXYN_and_keyMask _ _ _ _).trans rfl
theorem andReg (x y : Nibble) : Statement (.andReg x y) := (formXYN_and_keyMask _ _ _ _).trans rfl
theorem xorReg (x y : Nibble) : Statement (.xorReg x y) := (formXYN_and_keyMask _ _ _ _).trans rfl
theorem addReg (x y : Nibble) : Statement (.addReg x y) := (formXYN_and_keyMask _ _ _ _).trans rfl
theorem subReg (x y : Nibble) : Statement (.subReg x y) := (formXYN_and_keyMask _ _ _ _).trans rfl
theorem shr (x y : Nibble) : Statement (.shr x y) := (formXYN_and_keyMask _ _ _ _).trans rfl
theorem subnReg (x y : Nibble) : Statement (.subnReg x y) := (formXYN_and_keyMask _ _ _ _).trans rfl
theorem shl (x y : Nibble) : Statement (.shl x y) := (formXYN_and_keyMask _ _ _ _).trans rfl
theorem sneReg (x y : Nibble) : Statement (.sneReg x y) := (formXYN_and_keyMask _ _ _ _).trans rfl
theorem ldI (nnn : Addr12) : Statement (.ldI nnn) := (formNNN_and_mask _ _).trans rfl
theorem jpV0 (nnn : Addr12) : Statement (.jpV0 nnn) := (formNNN_and_mask _ _).trans rfl
theorem rnd (x : Nibble) (nn : Byte) : Statement (.rnd x nn) := (formXNN_and_mask _ _ _).trans rfl
theorem drw (x y n : Nibble) : Statement (.drw x y n) := (formXYN_and_mask _ _ _ _).trans rfl
theorem skp (x : Nibble) : Statement (.skp x) := (formXNN_and_keyMask _ _ _).trans rfl
theorem sknp (x : Nibble) : Statement (.sknp x) := (formXNN_and_keyMask _ _ _).trans rfl
theorem ldVxDt (x : Nibble) : Statement (.ldVxDt x) := (formXNN_and_keyMask _ _ _).trans rfl
theorem ldVxK (x : Nibble) : Statement (.ldVxK x) := (formXNN_and_keyMask _ _ _).trans rfl
theorem ldDtVx (x : Nibble) : Statement (.ldDtVx x) := (formXNN_and_keyMask _ _ _).trans rfl
theorem ldStVx (x : Nibble) : Statement (.ldStVx x) := (formXNN_and_keyMask _ _ _).trans rfl
theorem addI (x : Nibble) : Statement (.addI x) := (formXNN_and_keyMask _ _ _).trans rfl
theorem ldFVx (x : Nibble) : Statement (.ldFVx x) := (formXNN_and_keyMask _ _ _).trans rfl
theorem ldBVx (x : Nibble) : Statement (.ldBVx x) := (formXNN_and_keyMask _ _ _).trans rfl
theorem ldMemVx (x : Nibble) : Statement (.ldMemVx x) := (formXNN_and_keyMask _ _ _).trans rfl
theorem ldVxMem (x : Nibble) : Statement (.ldVxMem x) := (formXNN_and_keyMask _ _ _).trans rfl

end FixedBits

end Sys2Proof.Laws
end

