-- ==== Sys2Proof/Laws/Step.lean ====
section
/-! SUPPORT. What a step and an event can do, said once: the inversion of the step cycle, and the shape of every
meaning's answer. -/

namespace Sys2Proof.Machine

/-! ## The step cycle -/

theorem step_of_not_running {s : State} (h : s.run ≠ .running) : step s = .next s := by
  rw [step, stepCycle]
  split
  · rename_i e
    exact absurd e h
  · rfl
  · rfl

theorem step_of_pc_out {s : State} (hr : s.run = .running) (h : 0xFFE < s.pc.toNat) :
    step s = .next (s.raiseFault .pcOutOfBounds none) := by
  rw [step, stepCycle, hr, State.fetch_eq_none h]

theorem step_of_fetch {s : State} {op : Word} (hr : s.run = .running) (h : s.fetch = some op) :
    step s = runOpcode op s := by
  rw [step, stepCycle, hr, h]

theorem runOpcode_of_decode {op : Word} {i : Instr} (s : State) (h : decode op = some i) :
    runOpcode op s = exec i s := by
  rw [runOpcode, h]

theorem runOpcode_of_unknown {op : Word} (s : State) (h : decode op = none) :
    runOpcode op s = .next (s.raiseFault .unknownOpcode (some op)) := by
  rw [runOpcode, h]

/-- One step is one of four: idle, the fetch's fault, the decoder's fault, or the meaning of an instruction fetched
inside memory. -/
theorem step_cases (s : State) :
    (s.run ≠ .running ∧ step s = .next s) ∨
      (s.run = .running ∧ 0xFFE < s.pc.toNat ∧ step s = .next (s.raiseFault .pcOutOfBounds none)) ∨
      (s.run = .running ∧ s.pc.toNat ≤ 0xFFE ∧ ∃ op, s.fetch = some op ∧ decode op = none ∧
        step s = .next (s.raiseFault .unknownOpcode (some op))) ∨
      (s.run = .running ∧ s.pc.toNat ≤ 0xFFE ∧ ∃ op i, s.fetch = some op ∧ decode op = some i ∧
        step s = exec i s) := by
  by_cases hr : s.run = .running
  · rcases Nat.lt_or_ge 0xFFE s.pc.toNat with hpc | hpc
    · exact .inr (.inl ⟨hr, hpc, step_of_pc_out hr hpc⟩)
    · have hf := State.fetch_eq_some hpc
      generalize Memory.read s.mem s.pc.toNat ++ Memory.read s.mem (s.pc.toNat + 1) = op at hf
      have hs := step_of_fetch hr hf
      cases hd : decode op with
      | none => exact .inr (.inr (.inl ⟨hr, hpc, op, hf, hd, hs.trans (runOpcode_of_unknown s hd)⟩))
      | some i => exact .inr (.inr (.inr ⟨hr, hpc, op, i, hf, hd, hs.trans (runOpcode_of_decode s hd)⟩))
  · exact .inl ⟨hr, step_of_not_running hr⟩

/-! ## Meanings that have two answers -/

/-- 2NNN: the push, or StackOverflow. -/
theorem execCall_cases (nnn : Addr12) (s : State) :
    (∃ t, s.push s.pc = some t ∧ execCall nnn s = .next (t.complete (nnn.setWidth 16))) ∨
      (s.push s.pc = none ∧ execCall nnn s = .next (s.raiseBy .stackOverflow (.call nnn))) := by
  rw [execCall]
  cases s.push s.pc with
  | none => exact .inr ⟨rfl, rfl⟩
  | some t => exact .inl ⟨t, rfl, rfl⟩

/-- 00EE: the pop, or StackUnderflow. -/
theorem execRet_cases (s : State) :
    (∃ a t, s.pop = some (a, t) ∧ execRet s = .next (t.complete (a + 2))) ∨
      (s.pop = none ∧ execRet s = .next (s.raiseBy .stackUnderflow .ret)) := by
  rw [execRet]
  cases s.pop with
  | none => exact .inr ⟨rfl, rfl⟩
  | some p => exact .inl ⟨p.1, p.2, rfl, rfl⟩

/-- FX33: the store, or MemOutOfBounds. -/
theorem execLdBVx_cases (x : Nibble) (s : State) :
    (s.i.toNat + 3 ≤ 4096 ∧ execLdBVx x s =
        .next (s.writeMem (Memory.writeBytes s.mem s.i.toNat (bcdDigits (s.readV x)))).advance) ∨
      (4096 < s.i.toNat + 3 ∧ execLdBVx x s = .next (s.raiseBy .memOutOfBounds (.ldBVx x))) := by
  rw [execLdBVx]
  rcases s.storeI_cases (bcdDigits (s.readV x)) with ⟨h, e⟩ | ⟨-, h, e⟩ <;> rw [e]
  · exact .inl ⟨by simpa using h, rfl⟩
  · exact .inr ⟨h, rfl⟩

/-- FX55: the store, or MemOutOfBounds. -/
theorem execLdMemVx_cases (x : Nibble) (s : State) :
    (s.i.toNat + (x.toNat + 1) ≤ 4096 ∧ execLdMemVx x s =
        .next (s.writeMem (Memory.writeBytes s.mem s.i.toNat (s.readVs x))).advance) ∨
      (4096 < s.i.toNat + (x.toNat + 1) ∧
        execLdMemVx x s = .next (s.raiseBy .memOutOfBounds (.ldMemVx x))) := by
  rw [execLdMemVx]
  rcases s.storeI_cases (s.readVs x) with ⟨h, e⟩ | ⟨-, h, e⟩ <;> rw [e] <;> rw [State.length_readVs] at h
  · exact .inl ⟨by omega, rfl⟩
  · exact .inr ⟨h, rfl⟩

/-- FX65: the load, or MemOutOfBounds. -/
theorem execLdVxMem_cases (x : Nibble) (s : State) :
    (s.i.toNat + (x.toNat + 1) ≤ 4096 ∧ execLdVxMem x s =
        .next (s.writeVs (Memory.readBytes s.mem s.i.toNat (x.toNat + 1))).advance) ∨
      (4096 < s.i.toNat + (x.toNat + 1) ∧
        execLdVxMem x s = .next (s.raiseBy .memOutOfBounds (.ldVxMem x))) := by
  rw [execLdVxMem]
  rcases s.loadI_cases (x.toNat + 1) with ⟨h, e⟩ | ⟨-, h, e⟩ <;> rw [e]
  · exact .inl ⟨by omega, rfl⟩
  · exact .inr ⟨h, rfl⟩

/-- The drawing of DXYN: its rows read at I, nothing collided yet. -/
def spriteDrawing (x y n : Nibble) (s : State) : Drawing :=
  drawRows (s.readV x).toNat (s.readV y).toNat (Memory.readBytes s.mem s.i.toNat n.toNat) (false, s.fb)

/-- DXYN: the drawing, or MemOutOfBounds. -/
theorem execDrw_cases (x y n : Nibble) (s : State) :
    ((n.toNat = 0 ∨ s.i.toNat + n.toNat ≤ 4096) ∧ execDrw x y n s =
        .next (((s.writeVF (flagByte (spriteDrawing x y n s).1)).writeFB
          (spriteDrawing x y n s).2).raiseDraw).advance) ∨
      (n.toNat ≠ 0 ∧ 4096 < s.i.toNat + n.toNat ∧
        execDrw x y n s = .next (s.raiseBy .memOutOfBounds (.drw x y n))) := by
  rw [execDrw]
  rcases s.loadI_cases n.toNat with ⟨h, e⟩ | ⟨h0, h, e⟩ <;> rw [e]
  · exact .inl ⟨h, rfl⟩
  · exact .inr ⟨h0, h, rfl⟩

/-- Every meaning answers a next state: no instruction ends in a host fault or a refusal. -/
theorem exec_next (i : Instr) (s : State) : ∃ t, exec i s = .next t := by
  cases i with
  | call nnn => rcases execCall_cases nnn s with ⟨_, _, e⟩ | ⟨_, e⟩ <;> exact ⟨_, e⟩
  | ret => rcases execRet_cases s with ⟨_, _, _, e⟩ | ⟨_, e⟩ <;> exact ⟨_, e⟩
  | ldBVx x => rcases execLdBVx_cases x s with ⟨_, e⟩ | ⟨_, e⟩ <;> exact ⟨_, e⟩
  | ldMemVx x => rcases execLdMemVx_cases x s with ⟨_, e⟩ | ⟨_, e⟩ <;> exact ⟨_, e⟩
  | ldVxMem x => rcases execLdVxMem_cases x s with ⟨_, e⟩ | ⟨_, e⟩ <;> exact ⟨_, e⟩
  | drw x y n => rcases execDrw_cases x y n s with ⟨_, e⟩ | ⟨_, _, e⟩ <;> exact ⟨_, e⟩
  | _ => exact ⟨_, rfl⟩

/-! ## Events -/

/-- Running a schedule whose first event answers a next state. -/
theorem runEvents_cons {e : Event} {es : List Event} {s t : State} {out : List Output}
    (h : handle e s = .next (t, out)) :
    runEvents (e :: es) s =
      match runEvents es t with
      | .next (u, more) => .next (u, out ++ more)
      | .fault r => .fault r
      | .refused r => .refused r := by
  cases hr : runEvents es t <;> simp only [runEvents, h, hr]

/-- A schedule that answers a next state, taken apart at its first event. -/
theorem runEvents_cons_inv {e : Event} {es : List Event} {s u : State} {out : List Output}
    (h : runEvents (e :: es) s = .next (u, out)) :
    ∃ t o more, handle e s = .next (t, o) ∧ runEvents es t = .next (u, more) ∧ out = o ++ more := by
  rw [runEvents] at h
  split at h
  · rename_i t o ht
    split at h
    · rename_i u' more hu
      cases h
      exact ⟨t, o, more, ht, hu, rfl⟩
    · cases h
    · cases h
  · cases h
  · cases h

theorem onTick_of_halted {s : State} (h : s.run = .halted) : onTick s = (s, []) := by
  rw [onTick, h]

theorem onTick_of_not_halted {s : State} (h : s.run ≠ .halted) : onTick s = (s.tickTimers, s.tickOutputs) := by
  rw [onTick]
  split
  · rfl
  · rfl
  · rename_i e
    exact absurd e h

theorem imageFits_iff {rom : List Byte} : imageFits rom = true ↔ rom.length ≤ 3584 := by
  rw [imageFits, decide_eq_true_iff, Config.progBase, Config.memSize]
  omega

/-- LOAD refuses a long image with no change, and copies one that fits (40_step_cycle.md R101). -/
theorem onLoad_cases (rom : List Byte) (s : State) :
    (3584 < rom.length ∧ onLoad rom s = (s, [.loadRefused])) ∨
      (rom.length ≤ 3584 ∧ onLoad rom s = (s.copyImage rom, [])) := by
  rw [onLoad]
  rcases Nat.lt_or_ge 3584 rom.length with h | h
  · exact .inl ⟨h, if_neg fun e => absurd (imageFits_iff.mp e) (by omega)⟩
  · exact .inr ⟨h, if_pos (imageFits_iff.mpr h)⟩

theorem onKeyDown_of_waiting {s : State} (k : Nibble) (h : s.run = .waitingForKey) :
    onKeyDown k s = (s.pressKey k).endWait k := by
  rw [onKeyDown, h]

theorem onKeyDown_of_not_waiting {s : State} (k : Nibble) (h : s.run ≠ .waitingForKey) :
    onKeyDown k s = s.pressKey k := by
  rw [onKeyDown]
  split
  · rename_i e
    exact absurd e h
  · rfl
  · rfl

end Sys2Proof.Machine
end

