-- ==== Sys2Proof/Tests/Slice0.lean ====
section
/-! SUPPORT. The model's own tests, each value from 95_test_vectors.md (the vector is named) or worked out by hand
from the rule named: the well-formedness smoke, one opcode per instruction written out from its encoding, a step
per instruction, and for each obligation a state that meets its hypotheses. -/

namespace Sys2Proof.Tests

open Sys2Proof.Machine

/-! ## Helpers -/

/-- The state after one STEP of the opcode `op` placed under PC. -/
def stepped (op : Nat) (s : State) : Option State :=
  match step (s.withFetchWord 16 op) with
  | .next t => some t
  | .fault _ => none
  | .refused _ => none

/-- Two registers of the state after one STEP. -/
def steppedV (op : Nat) (s : State) (x y : Nibble) : Option (Byte × Byte) :=
  (stepped op s).map (fun t => (t.readV x, t.readV y))

/-- PC after one STEP. -/
def steppedPc (op : Nat) (s : State) : Option Word := (stepped op s).map State.pc

/-- Reset with one general register set. -/
def setV (x : Nibble) (a : Byte) : State := State.reset.writeV x a

/-- Reset with two general registers set. -/
def setVV (x : Nibble) (a : Byte) (y : Nibble) (b : Byte) : State := (setV x a).writeV y b

/-- Reset with I set. -/
def setI (a : Word) : State := State.reset.writeI a

/-- Reset with `n` slots occupied, the top one holding `a`. -/
def setTop (n : Fin 16) (a : Word) : State :=
  { State.reset with stack := State.reset.stack.set n.val a n.isLt, sp := n.succ }

/-! ## Well-formed terms (30_encoding.md R76) -/

theorem test_wellFormed_refuses_sys_0E0 : (Instr.sys 0x0E0).wellFormed = false := by decide
theorem test_wellFormed_refuses_sys_0EE : (Instr.sys 0x0EE).wellFormed = false := by decide
theorem test_wellFormed_accepts_neighbours :
    (Instr.sys 0x0E1).wellFormed = true ∧ (Instr.sys 0x1EE).wellFormed = true ∧ Instr.cls.wellFormed = true := by
  decide

/-! ## One opcode per instruction, nibble by nibble from 30_encoding.md R74 -/

theorem test_decode_sys : decode 0x0123 = some (.sys 0x123) := by decide
theorem test_decode_cls : decode 0x00E0 = some .cls := by decide
theorem test_decode_ret : decode 0x00EE = some .ret := by decide
theorem test_decode_jp : decode 0x1ABC = some (.jp 0xABC) := by decide
theorem test_decode_call : decode 0x2DEF = some (.call 0xDEF) := by decide
theorem test_decode_seImm : decode 0x332A = some (.seImm 3 0x2A) := by decide
theorem test_decode_sneImm : decode 0x4B7C = some (.sneImm 0xB 0x7C) := by decide
theorem test_decode_seReg : decode 0x5120 = some (.seReg 1 2) := by decide
theorem test_decode_ldImm : decode 0x632A = some (.ldImm 3 0x2A) := by decide
theorem test_decode_addImm : decode 0x7AFE = some (.addImm 0xA 0xFE) := by decide
theorem test_decode_ldReg : decode 0x8120 = some (.ldReg 1 2) := by decide
theorem test_decode_orReg : decode 0x8121 = some (.orReg 1 2) := by decide
theorem test_decode_andReg : decode 0x8122 = some (.andReg 1 2) := by decide
theorem test_decode_xorReg : decode 0x8123 = some (.xorReg 1 2) := by decide
theorem test_decode_addReg : decode 0x8124 = some (.addReg 1 2) := by decide
theorem test_decode_subReg : decode 0x8125 = some (.subReg 1 2) := by decide
theorem test_decode_shr : decode 0x8126 = some (.shr 1 2) := by decide
theorem test_decode_subnReg : decode 0x8127 = some (.subnReg 1 2) := by decide
theorem test_decode_shl : decode 0x812E = some (.shl 1 2) := by decide
theorem test_decode_sneReg : decode 0x9120 = some (.sneReg 1 2) := by decide
theorem test_decode_ldI : decode 0xA300 = some (.ldI 0x300) := by decide
theorem test_decode_jpV0 : decode 0xB345 = some (.jpV0 0x345) := by decide
theorem test_decode_rnd : decode 0xC10F = some (.rnd 1 0x0F) := by decide
theorem test_decode_drw : decode 0xD125 = some (.drw 1 2 5) := by decide
theorem test_decode_skp : decode 0xE19E = some (.skp 1) := by decide
theorem test_decode_sknp : decode 0xE1A1 = some (.sknp 1) := by decide
theorem test_decode_ldVxDt : decode 0xF407 = some (.ldVxDt 4) := by decide
theorem test_decode_ldVxK : decode 0xF30A = some (.ldVxK 3) := by decide
theorem test_decode_ldDtVx : decode 0xF415 = some (.ldDtVx 4) := by decide
theorem test_decode_ldStVx : decode 0xF018 = some (.ldStVx 0) := by decide
theorem test_decode_addI : decode 0xF11E = some (.addI 1) := by decide
theorem test_decode_ldFVx : decode 0xF029 = some (.ldFVx 0) := by decide
theorem test_decode_ldBVx : decode 0xF233 = some (.ldBVx 2) := by decide
theorem test_decode_ldMemVx : decode 0xF155 = some (.ldMemVx 1) := by decide
theorem test_decode_ldVxMem : decode 0xF265 = some (.ldVxMem 2) := by decide

/-- T182: the neighbours of CLS and RET are SYS. -/
theorem test_decode_sys_neighbours :
    [0x00E1#16, 0x00EF#16, 0x00ED#16, 0x01EE#16, 0x0EE0#16].map decode =
      [some (.sys 0x0E1), some (.sys 0x0EF), some (.sys 0x0ED), some (.sys 0x1EE), some (.sys 0xEE0)] := by decide

/-- T183, T184: unknown opcodes of families 5, 9 and 8. -/
theorem test_decode_unknown_nibble :
    [0x5121#16, 0x512F#16, 0x9121#16, 0x8128#16, 0x8129#16, 0x812A#16, 0x812B#16, 0x812C#16, 0x812D#16,
      0x812F#16].all (fun op => (decode op).isNone) = true := by decide

/-- T185, T186: unknown opcodes of families E and F. -/
theorem test_decode_unknown_byte :
    [0xE19F#16, 0xE1A0#16, 0xE000#16, 0xE1FF#16, 0xF000#16, 0xF108#16, 0xF11F#16, 0xF130#16, 0xF175#16, 0xF185#16,
      0xFFFF#16].all (fun op => (decode op).isNone) = true := by decide

/-- The bytes as they lie in memory, high byte first (S1, T191), and the refusals by name. -/
theorem test_decodeBytes :
    encodeBytes (.ldImm 3 0x2A) = [0x63, 0x2A] ∧ decodeBytes [0x63] = .error .truncated ∧
      decodeBytes [0xFF, 0xFF, 0x00] = .error (.unknownOpcode 0xFFFF) := ⟨rfl, rfl, rfl⟩

/-- The host's numbering of a row's bits. -/
theorem test_decodeTableWord :
    decodeTableWord 16 0x8124 = some (.addReg 1 2) ∧ decodeTableWord 16 0xFFFF = none := by decide

/-! ## A step per instruction -/

/-- T180. -/
theorem test_sys : (stepped 0x0000 State.reset).map (fun t => (t.pc, t.steps, t.v)) =
    some (0x202, 1, State.reset.v) := by decide

/-- T130, on three lit pixels. -/
theorem test_cls : (stepped 0x00E0 { setV 0xF 7 with fb := [(0, 1), (3, 1), (67, 1)] }).map
    (fun t => (t.fb, t.drawf, t.readV 0xF)) = some ([], false, 7) := by decide

/-- T9. -/
theorem test_ret : (stepped 0x00EE (setTop 0 0x0204)).map (fun t => (t.pc, t.sp, t.stack[0])) =
    some (0x206, 0, 0x0204) := by decide

/-- T11: the sixteenth slot. -/
theorem test_ret_full : (stepped 0x00EE (setTop 15 0x0ABC)).map (fun t => (t.pc, t.sp)) = some (0xABE, 15) := by
  decide

/-- T1, T5. -/
theorem test_jp : [steppedPc 0x1234 State.reset, steppedPc 0x1203 State.reset] = [some 0x234, some 0x203] := by
  decide

/-- T6. -/
theorem test_call : (stepped 0x2300 { State.reset with pc := 0x204 }).map (fun t => (t.pc, t.sp, t.stack[0])) =
    some (0x300, 1, 0x204) := by decide

/-- T7: the last free slot. -/
theorem test_call_last : (stepped 0x2300 (setTop 14 0)).map (fun t => (t.pc, t.sp, t.stack[15])) =
    some (0x300, 16, 0x200) := by decide

/-- T12, S5. -/
theorem test_seImm : [steppedPc 0x3F00 State.reset, steppedPc 0x332A (setV 3 0x2B)] = [some 0x204, some 0x202] := by
  decide

/-- T21: a skip at the top of memory. -/
theorem test_seImm_top : steppedPc 0x3000 { State.reset with pc := 0xFFE } = some 0x1002 := by decide

/-- T13, T14. -/
theorem test_sneImm : [steppedPc 0x4300 (setV 3 0x2A), steppedPc 0x432A (setV 3 0x2A)] =
    [some 0x204, some 0x202] := by decide

/-- T15, T16. -/
theorem test_seReg : [steppedPc 0x5120 (setVV 1 7 2 7), steppedPc 0x5120 (setVV 1 7 2 8)] =
    [some 0x204, some 0x202] := by decide

/-- T18, T19. -/
theorem test_sneReg : [steppedPc 0x9120 (setVV 1 7 2 8), steppedPc 0x9120 (setVV 1 7 2 7)] =
    [some 0x204, some 0x202] := by decide

/-- S1, T30. -/
theorem test_ldImm : [steppedV 0x632A State.reset 3 0xF, steppedV 0x6FFF State.reset 3 0xF] =
    [some (0x2A, 0), some (0, 0xFF)] := by decide

/-- T31. -/
theorem test_addImm : steppedV 0x7002 (setV 0 0xFF) 0 0xF = some (0x01, 0) := by decide

/-- T34. -/
theorem test_ldReg : steppedV 0x8120 (setV 2 0x55) 1 2 = some (0x55, 0x55) := by decide

/-- T35. -/
theorem test_orReg : steppedV 0x8121 ((setVV 1 0xF0 2 0x0F).writeV 0xF 0x5A) 1 0xF = some (0xFF, 0x5A) := by decide

/-- T36. -/
theorem test_andReg : steppedV 0x8122 ((setVV 1 0xF3 2 0x3F).writeV 0xF 0x5A) 1 0xF = some (0x33, 0x5A) := by
  decide

/-- T37. -/
theorem test_xorReg : steppedV 0x8123 ((setVV 1 0xFF 2 0x0F).writeV 0xF 0x5A) 1 0xF = some (0xF0, 0x5A) := by
  decide

/-- T39, T40: the sums 255 and 256. -/
theorem test_addReg : [steppedV 0x8124 (setVV 1 0xFE 2 0x01) 1 0xF, steppedV 0x8124 (setVV 1 0xFF 2 0x01) 1 0xF] =
    [some (0xFF, 0), some (0x00, 1)] := by decide

/-- T44, T45: VF as X and as Y. -/
theorem test_addReg_vf : [steppedV 0x8F14 (setVV 0xF 0xF0 1 0x20) 0xF 1, steppedV 0x81F4 (setVV 1 0xFF 0xF 1) 1 0xF] =
    [some (0x10, 0x20), some (0x00, 1)] := by decide

/-- T47, T48. -/
theorem test_subReg : [steppedV 0x8125 (setVV 1 5 2 5) 1 0xF, steppedV 0x8125 (setVV 1 0 2 0xFF) 1 0xF] =
    [some (0, 1), some (0x01, 0)] := by decide

/-- T49: VF as X. -/
theorem test_subReg_vf : steppedV 0x8F15 (setVV 0xF 0x05 1 0x03) 0xF 1 = some (0x02, 0x03) := by decide

/-- T50, T51. -/
theorem test_subnReg : [steppedV 0x8127 (setVV 1 2 2 1) 1 0xF, steppedV 0x8127 (setVV 1 1 2 3) 1 0xF] =
    [some (0xFF, 0), some (0x02, 1)] := by decide

/-- T63, T64: Y ignored, VF as X. -/
theorem test_shr : [steppedV 0x8016 (setVV 0 0x03 1 0xFF) 0 0xF, steppedV 0x8F06 (setV 0xF 0x80) 0xF 1] =
    [some (0x01, 1), some (0x40, 0)] := by decide

/-- T66, T70: the flag 0x80, VF as X. -/
theorem test_shl : [steppedV 0x800E (setV 0 0x81) 0 0xF, steppedV 0x8FFE (setV 0xF 0xC0) 0xF 1] =
    [some (0x02, 0x80), some (0x80, 0)] := by decide

/-- T80. -/
theorem test_ldI : (stepped 0xAFFF State.reset).map State.i = some 0x0FFF := by decide

/-- T82, T83. -/
theorem test_jpV0 : [steppedPc 0xBFFF (setV 0 0xFF), steppedPc 0xB300 (setV 0 1)] = [some 0x10FE, some 0x301] := by
  decide

/-- T110: with the mask 0 the draw does not matter. -/
theorem test_rnd : ∃ t, stepped 0xC100 (setV 1 0x55) = some t ∧ t.readV 1 = 0 ∧ t.draws = 1 :=
  ⟨_, rfl, BitVec.and_zero, rfl⟩

/-- T122, its rows at the foot of the screen and the wrap to the top. -/
theorem test_drw_wrap : (stepped 0xD015 ((setVV 0 0x3E 1 0x1E).writeI 0x032)).map
    (fun t => (t.fb.map Prod.fst, t.readV 0xF, t.drawf)) =
      some ([0, 1, 62, 63, 64 + 1, 64 + 62, 128 + 1, 128 + 62, 1920, 1921, 1920 + 62, 1920 + 63, 1984 + 1, 1984 + 62],
        0, true) := by decide

/-- T128: a collision. -/
theorem test_drw_collision : (stepped 0xD001 { setV 0 2 with fb := [(2 * 64 + 3, 1)] }).map
    (fun t => (t.fb.map Prod.fst, t.readV 0xF)) = some ([128 + 2, 128 + 4, 128 + 5], 1) := by decide

/-- T140, T142: a code above 15 names no key. -/
theorem test_skp : [steppedPc 0xE19E ((setV 1 5).pressKey 5), steppedPc 0xE19E ((setV 1 0x15).pressKey 5)] =
    [some 0x204, some 0x202] := by decide

/-- T143, T145. -/
theorem test_sknp : [steppedPc 0xE1A1 ((setV 1 5).pressKey 5), steppedPc 0xE1A1 (setV 1 0xFF)] =
    [some 0x202, some 0x204] := by decide

/-- T160. -/
theorem test_ldVxDt : (stepped 0xF407 (State.reset.writeDT 0x2C)).map (fun t => (t.readV 4, t.dt)) =
    some (0x2C, 0x2C) := by decide

/-- T146: a held key does not end the wait. -/
theorem test_ldVxK : (stepped 0xF30A ({ State.reset with pc := 0x210 }.pressKey 4)).map
    (fun t => (t.kx, t.run, t.pc, t.readV 3)) = some (3, .waitingForKey, 0x212, 0) := by decide

/-- T161. -/
theorem test_ldDtVx : (stepped 0xF415 (setV 4 0x3C)).map State.dt = some 0x3C := by decide

/-- T162. -/
theorem test_ldStVx : (stepped 0xF018 (setV 0 3)).map (fun t => (t.st, t.beep)) = some (3, false) := by decide

/-- T84, T85: the sums 0xFFF and 0x1000. -/
theorem test_addI : [(stepped 0xF11E ((setV 1 0x0F).writeI 0x0FF0)).map (fun t => (t.i, t.readV 0xF)),
    (stepped 0xF11E ((setV 1 0x10).writeI 0x0FF0)).map (fun t => (t.i, t.readV 0xF))] =
      [some (0x0FFF, 0), some (0x1000, 1)] := by decide

/-- T87, T88: the wrap of I, and VF as the operand. -/
theorem test_addI_wrap : [(stepped 0xF11E ((setV 1 2).writeI 0xFFFF)).map (fun t => (t.i, t.readV 0xF)),
    (stepped 0xFF1E ((setV 0xF 5).writeI 0x0010)).map (fun t => (t.i, t.readV 0xF))] =
      [some (0x0001, 1), some (0x0015, 0)] := by decide

/-- T90, T91. -/
theorem test_ldFVx : [(stepped 0xF029 (setV 0 0x0F)).map State.i, (stepped 0xF029 (setV 0 0xFF)).map State.i] =
    [some 0x004B, some 0x04FB] := by decide

/-- T94: the last three bytes of memory. -/
theorem test_ldBVx : (stepped 0xF233 ((setV 2 0xFF).writeI 0xFFD)).map (fun t => Memory.readBytes t.mem 0xFFD 3) =
    some [2, 5, 5] := by decide

/-- T96. -/
theorem test_ldMemVx : (stepped 0xF155 (((setVV 0 0x12 1 0x0A).writeV 2 0x77).writeI 0x20A)).map
    (fun t => (Memory.readBytes t.mem 0x20A 3, t.i)) = some ([0x12, 0x0A, 0x00], 0x20A) := by decide

/-- T101: the first glyphs of the font, VF loaded like the others. -/
theorem test_ldVxMem : (stepped 0xFF65 State.reset).map (fun t => t.v.toList) =
    some [0xF0, 0x90, 0x90, 0x90, 0xF0, 0x20, 0x60, 0x20, 0x20, 0x70, 0xF0, 0x10, 0xF0, 0x80, 0xF0, 0xF0] := by
  decide

/-! ## Faults (60_exceptions.md) and events -/

/-- S8. -/
theorem test_unknown : (stepped 0xFFFF State.reset).map (fun t => (t.run, t.fault, t.pc, t.steps)) =
    some (.halted, some ⟨.unknownOpcode, some 0xFFFF, 0x200, 0⟩, 0x200, 0) := by decide

/-- T8, T10. -/
theorem test_stack_faults : [(stepped 0x2300 (setTop 15 0)).map State.fault, (stepped 0x00EE State.reset).map State.fault] =
    [some (some ⟨.stackOverflow, some 0x2300, 0x200, 0⟩), some (some ⟨.stackUnderflow, some 0x00EE, 0x200, 0⟩)] := by
  decide

/-- T95, T99, T102, T125. -/
theorem test_memory_faults : [(stepped 0xF233 (setI 0xFFE)).map State.fault, (stepped 0xFF55 (setI 0xFF1)).map State.fault,
    (stepped 0xF165 (setI 0xFFF)).map State.fault, (stepped 0xD011 (setI 0x1000)).map State.fault] =
      [some (some ⟨.memOutOfBounds, some 0xF233, 0x200, 0⟩), some (some ⟨.memOutOfBounds, some 0xFF55, 0x200, 0⟩),
        some (some ⟨.memOutOfBounds, some 0xF165, 0x200, 0⟩), some (some ⟨.memOutOfBounds, some 0xD011, 0x200, 0⟩)] := by
  decide

/-- T124: a sprite of no rows reaches nowhere. -/
theorem test_drw_no_rows : (stepped 0xD010 ((setV 0xF 1).writeI 0xFFFF)).map
    (fun t => (t.fault, t.readV 0xF, t.drawf)) = some (none, 0, true) := by decide

/-- T163, T165, T167. -/
theorem test_tick : (onTick { State.reset with drawf := true }).2 = [.audioUpdate false, .renderUpdate true] ∧
    (onTick (State.reset.writeST 2)).1.beep = true ∧
    onTick { State.reset with run := .halted, dt := 5, beep := true } =
      ({ State.reset with run := .halted, dt := 5, beep := true }, []) := by decide

/-- T149, T195. -/
theorem test_keyDown : (onKeyDown 0xB (State.reset.waitKey 3)).readV 3 = 0x0B ∧
    (onKeyDown 0xB (State.reset.waitKey 3)).run = .running ∧
    (onKeyDown 5 (onStop (State.reset.waitKey 3))).readV 3 = 0 := by decide

/-- T191, and a stored font byte is its own reset contents. -/
theorem test_load : (onLoad [0x63, 0x2A] State.reset).1.mem = [(0x200, 0x63), (0x201, 0x2A)] ∧
    Memory.write [] 0 0xF0 = [] := by decide

/-! ## Witnesses: for each obligation with hypotheses, a state and operands that meet them -/

/-- O1, and the legal operands at their largest. -/
theorem test_witness_encodedBytes : (Instr.drw 0xF 0xF 0xF).wellFormed = true ∧ (Instr.sys 0xFFF).wellFormed = true := by
  decide

/-- O2, O3: legal opcodes, 0x00E0 and 0x00EE fitting the row of SYS too. -/
theorem test_witness_opcodeRows : decode 0xD125 = some (.drw 1 2 5) ∧ (Instr.sys 0).opcodeRow.fits 0x00E0 ∧
    (Instr.sys 0).opcodeRow.fits 0x00EE ∧ (Instr.sys 0).opcodeRow.fits 0x00E1 ∧ (Instr.shl 0 0).opcodeRow.fits 0x812E :=
  ⟨by decide, rfl, rfl, rfl, rfl⟩

/-- O6 at the last address an opcode can lie at, and at reset. -/
theorem test_witness_stepRuns :
    ({ State.reset with pc := 0xFFE } : State).pc.toNat ≤ 0xFFE ∧
      decode (Memory.read State.reset.mem 0xFFE ++ Memory.read State.reset.mem (0xFFE + 1)) = some (.sys 0) ∧
      step (State.reset.withFetchWord 16 0x632A) = exec (.ldImm 3 0x2A) (State.reset.withFetchWord 16 0x632A) :=
  ⟨by decide, by decide, rfl⟩

/-- O7 at reset with an unknown opcode placed. -/
theorem test_witness_unknownOpcode : (State.reset.withFetchWord 16 0xFFFF).run = .running ∧
    (State.reset.withFetchWord 16 0xFFFF).pc.toNat ≤ 0xFFE ∧
    Memory.read (State.reset.withFetchWord 16 0xFFFF).mem 0x200 ++
      Memory.read (State.reset.withFetchWord 16 0xFFFF).mem (0x200 + 1) = 0xFFFF#16 ∧ decode 0xFFFF = none := by decide

/-- O8 just beyond the last fetch address; O9 in both of its run states. -/
theorem test_witness_pcOut : ({ State.reset with pc := 0xFFF } : State).run = .running ∧
    0xFFE < ({ State.reset with pc := 0xFFF } : State).pc.toNat ∧ (State.reset.waitKey 0).run ≠ .running ∧
    (onStop State.reset).run ≠ .running := by decide

/-- O10: a step that completes, and one that faults. -/
theorem test_witness_completesOrFaults : (stepped 0x0000 State.reset).map State.steps = some 1 ∧
    (stepped 0x5121 State.reset).map State.steps = some 0 ∧ (State.reset.waitKey 0).run ≠ .running := by decide

/-- O11: each form one byte beyond memory, its range ending at 0x1000. -/
theorem test_witness_dataOut : 0xFFF < (setI 0xFFE).i.toNat + 2 ∧ 0xFFF < (setI 0xFFF).i.toNat + (1#4).toNat ∧
    0xFFF < (setI 0x1000).i.toNat + (0#4).toNat ∧ 0 < (15#4).toNat ∧ 0xFFF < (setI 0xFF2).i.toNat + (15#4).toNat - 1 := by
  decide

/-- A state with an occupied slot, stored bytes and a lit pixel. -/
def busy : State := { setTop 0 0x204 with mem := [(0x200, 0x22)], fb := [(2047, 1)], pc := 0x10FE }

theorem test_busy_inv : Inv busy where
  mem := by decide
  fb := by decide
  pc := by decide
  stack := by unfold StackHoldsFetched; decide
  fault := fun _ h => nomatch h

/-- The state after S8's fault. -/
def faulted : State := { (State.reset.withFetchWord 16 0xFFFF) with
  run := .halted, fault := some ⟨.unknownOpcode, some 0xFFFF, 0x200, 0⟩ }

theorem test_faulted_inv : Inv faulted where
  mem := by decide
  fb := by decide
  pc := by decide
  stack := by unfold StackHoldsFetched; decide
  fault := by
    intro r h
    obtain rfl := Option.some.inj h
    decide

/-- O13: a good state that steps into a fault, and one that has taken one. -/
theorem test_witness_stepInv : (∃ t, Inv busy ∧ step busy = .next t ∧ t.run = .halted) ∧
    (∃ t, Inv faulted ∧ step faulted = .next t) := ⟨⟨_, test_busy_inv, rfl, rfl⟩, ⟨_, test_faulted_inv, rfl⟩⟩

/-- O14: a schedule that leaves Halted and runs a loaded program. -/
theorem test_witness_schedule : ∃ t out, Inv faulted ∧
    runEvents [.step, .init, .load [0x63, 0x2A], .step, .tick] faulted = .next (t, out) ∧ t.readV 3 = 0x2A :=
  ⟨_, _, test_faulted_inv, rfl, by decide⟩

/-- O15, O16: a register beside the destination, an address beside each end of a store. -/
theorem test_witness_frames : (∃ t, exec (.ldImm 3 0x2A) State.reset = .next t ∧ ¬ (Instr.ldImm 3 0x2A).mayWriteV 2) ∧
    (∃ t, exec (.ldVxMem 2) State.reset = .next t ∧ ¬ (Instr.ldVxMem 2).mayWriteV 3) ∧
    (∃ t, exec (.ldBVx 0) (setI 0x300) = .next t ∧ ¬ (Instr.ldBVx 0).mayStore (setI 0x300) 0x2FF ∧
      ¬ (Instr.ldBVx 0).mayStore (setI 0x300) 0x303) :=
  ⟨⟨_, rfl, by simp only [Instr.mayWriteV]; decide⟩, ⟨_, rfl, by simp only [Instr.mayWriteV]; decide⟩,
    ⟨_, rfl, by simp only [Instr.mayStore]; decide, by simp only [Instr.mayStore]; decide⟩⟩

/-- O17: for each special element an instruction that does change it. -/
theorem test_witness_specialWriters : (∃ t, exec (.ldI 1) State.reset = .next t ∧ t.i ≠ State.reset.i) ∧
    (∃ t, exec (.call 1) State.reset = .next t ∧ t.sp ≠ State.reset.sp ∧ t.stack ≠ State.reset.stack) ∧
    (∃ t, exec (.ldDtVx 1) (setV 1 1) = .next t ∧ t.dt ≠ (setV 1 1).dt) ∧
    (∃ t, exec (.ldStVx 1) (setV 1 1) = .next t ∧ t.st ≠ (setV 1 1).st) ∧
    (∃ t, exec (.ldVxK 1) State.reset = .next t ∧ t.kx ≠ State.reset.kx) ∧
    (∃ t, exec (.drw 0 0 1) State.reset = .next t ∧ t.drawf ≠ State.reset.drawf ∧ t.fb ≠ State.reset.fb) ∧
    (∃ t, exec (.rnd 1 0) State.reset = .next t ∧ t.draws ≠ State.reset.draws) :=
  ⟨⟨_, rfl, by decide⟩, ⟨_, rfl, by decide, by decide⟩, ⟨_, rfl, by decide⟩, ⟨_, rfl, by decide⟩, ⟨_, rfl, by decide⟩,
    ⟨_, rfl, by decide, by decide⟩, ⟨_, rfl, by decide⟩⟩

/-- O18: an instruction that goes on at the next opcode, one that completes elsewhere. -/
theorem test_witness_noDivert : ¬ (Instr.ldVxK 1).mayDivert ∧ (Instr.jp 0).mayDivert :=
  ⟨fun h => h, trivial⟩

/-- O20 to O24: the first and the last slot, the full and the empty stack. -/
theorem test_witness_stack : State.reset.sp.val = (0 : Fin 16).val ∧ (setTop 14 0).sp.val = (15 : Fin 16).val ∧
    (setTop 15 0).sp.val = 16 ∧ (setTop 0 0).sp.val = (0 : Fin 16).val + 1 ∧ (setTop 15 0).sp.val = (15 : Fin 16).val + 1 ∧
    (setTop 14 0).sp.val < 16 := by decide

/-- O25, O26: equal and unequal operands. -/
theorem test_witness_skips : (setV 3 0x2A).readV 3 = 0x2A ∧ (setV 3 0x2A).readV 3 ≠ 0x2B ∧
    (setVV 1 7 2 7).readV 1 = (setVV 1 7 2 7).readV 2 ∧ (setVV 1 7 2 8).readV 1 ≠ (setVV 1 7 2 8).readV 2 := by decide

/-- O30: sums 255 and 256 with the destination not VF. -/
theorem test_witness_carry : (1 : Nibble) ≠ vf ∧
    ((setVV 1 0xFE 2 1).readV 1).toNat + ((setVV 1 0xFE 2 1).readV 2).toNat ≤ 255 ∧
    255 < ((setVV 1 0xFF 2 1).readV 1).toNat + ((setVV 1 0xFF 2 1).readV 2).toNat := by decide

/-- O31, O32: a borrow by one, and equal operands. -/
theorem test_witness_borrow : (1 : Nibble) ≠ vf ∧
    ((setVV 1 4 2 5).readV 1).toNat < ((setVV 1 4 2 5).readV 2).toNat ∧
    ((setVV 1 5 2 5).readV 2).toNat ≤ ((setVV 1 5 2 5).readV 1).toNat ∧
    ((setVV 1 5 2 4).readV 2).toNat < ((setVV 1 5 2 4).readV 1).toNat := by decide

/-- O33, O34: the top bit clear and set. -/
theorem test_witness_shifts : (0 : Nibble) ≠ vf ∧ ((setV 0 0x7F).readV 0).toNat < 128 ∧
    128 ≤ ((setV 0 0x80).readV 0).toNat := by decide

/-- O37: the sums 0xFFF and 0x1000. -/
theorem test_witness_indexOverflow :
    ((setV 1 0x0F).writeI 0x0FF0).i.toNat + (((setV 1 0x0F).writeI 0x0FF0).readV 1).toNat ≤ 0x0FFF ∧
    0x0FFF < ((setV 1 0x10).writeI 0x0FF0).i.toNat + (((setV 1 0x10).writeI 0x0FF0).readV 1).toNat := by decide

/-- O39 to O42: ranges that end at the last byte of memory, with addresses outside them and a register beyond `x`. -/
theorem test_witness_dataIn : (setI 0xFFD).i.toNat + 2 ≤ 0xFFF ∧ 0xFFC < (setI 0xFFD).i.toNat ∧
    (setI 0xFF0).i.toNat + (15#4).toNat ≤ 0xFFF ∧ (setI 0xFF0).i.toNat + (15#4).toNat < 0x1000 ∧
    (15#4).toNat ≤ (15#4).toNat ∧ (14#4).toNat < (15#4).toNat := by decide

/-- O43: V0, V1 hold 12 0A and I points past the store. -/
def storesJump : State := (setVV 0 0x12 1 0x0A).writeI 0x202

theorem test_witness_selfModify : storesJump.run = .running ∧ 1 ≤ (1#4).toNat ∧ storesJump.pc.toNat + 2 ≤ 0xFFE ∧
    storesJump.i.toNat = storesJump.pc.toNat + 2 ∧ storesJump.i.toNat + (1#4).toNat ≤ 0xFFF ∧
    decode (storesJump.readV 0 ++ storesJump.readV 1) = some (.jp 0x20A) := by decide

/-- O44: a clear bit of the mask, and the mask 0. -/
theorem test_witness_mask : (0x0F#8).getLsbD 4 = false ∧ (0x00#8) = 0 := by decide

/-- O45, O46, O47: no rows anywhere, and rows up to 0xFFF. -/
theorem test_witness_spriteIn : (0#4).toNat = 0 ∧ (setI 0xFF1).i.toNat + (15#4).toNat - 1 ≤ 0xFFF ∧
    (0 : Nibble) ≠ vf ∧ Screen.wf State.reset.fb = true := by decide

/-- O45, O47: a covered dark pixel, an uncovered one (T120). -/
theorem test_witness_covers : SpriteCovers State.reset 0 0 5 3 4 ∧ pixel State.reset 3 4 = 0 ∧
    ¬ SpriteCovers State.reset 0 0 5 4 0 := by
  refine ⟨⟨4, by decide, 3, by decide, by decide, rfl, rfl⟩, rfl, ?_⟩
  rintro ⟨r, hr, c, hc, h, hx, -⟩
  have h4 : c = 4 := by simp only [screenWidth] at hx; omega
  subst h4
  have : ∀ r, r < 5 → (Memory.read State.reset.mem (State.reset.i.toNat + r)).getLsbD (7 - 4) ≠ true := by decide
  exact this r hr h

/-- O46: a lit pixel under the sprite (T128), and none. -/
theorem test_witness_collision :
    (SpriteCovers { State.reset with fb := [(3, 1)] } 2 0 1 3 0 ∧ pixel { State.reset with fb := [(3, 1)] } 3 0 = 1) ∧
      ¬ ∃ px py, SpriteCovers State.reset 0 0 1 px py ∧ pixel State.reset px py = 1 :=
  ⟨⟨⟨0, by decide, 1, by decide, by decide, rfl, rfl⟩, rfl⟩, fun ⟨_, _, _, h⟩ => absurd h (by decide : (0#8) ≠ 1)⟩

/-- O49: key 15 pressed, and a code that names no key. -/
theorem test_witness_keys : KeyIsPressed (State.reset.pressKey 15) 15 ∧ ¬ KeyIsPressed (State.reset.pressKey 15) 16 :=
  ⟨⟨15, rfl, by decide⟩, fun ⟨k, h, _⟩ => absurd k.isLt (by simp [h])⟩

/-- O53: neighbours of the two opcodes taken out of SYS. -/
theorem test_witness_sys : (0x0E1 : Addr12) ≠ 0x0E0 ∧ (0x0EF : Addr12) ≠ 0x0EE := by decide

/-- O54, O55, O56: each run state a clause asks for. -/
theorem test_witness_runStates : (onStop State.reset).run = .halted ∧ (State.reset.waitKey 3).run ≠ .halted ∧
    State.reset.run ≠ .waitingForKey ∧ (onStop State.reset).run ≠ .waitingForKey ∧ 0 < 1 := by decide

/-- R101, D27: LOAD copies in WaitingForKey and in Halted too, and R209: KEYDOWN updates the keys in Halted. -/
theorem test_load_run_states : (onLoad [0x63, 0x2A] (State.reset.waitKey 3)).1.mem = [(0x200, 0x63), (0x201, 0x2A)] ∧
    (onLoad [0x63, 0x2A] (onStop State.reset)).1.mem = [(0x200, 0x63), (0x201, 0x2A)] ∧
    (onKeyDown 5 (onStop State.reset)).lastKey = some 5 := by decide

/-- O58: the longest image that fits, the shortest that does not, and addresses beside a short one. -/
theorem test_witness_images : (List.replicate 3584 (0 : Byte)).length ≤ 3584 ∧
    3584 < (List.replicate 3585 (0 : Byte)).length ∧ 1 < [0x63#8, 0x2A#8].length ∧ 0x1FF < 0x200 ∧
    0x200 + [0x63#8, 0x2A#8].length ≤ 0x202 :=
  ⟨by rw [List.length_replicate], by rw [List.length_replicate]; decide, by decide, by decide, by decide⟩

/-- O59: the last byte of the font and the first after it (20_memory.md R52, R53). -/
theorem test_witness_font : 79 < font.length ∧ ¬ 80 < font.length ∧ Memory.read State.reset.mem 79 = 0x80 ∧
    Memory.read State.reset.mem 80 = 0 := by decide

/-- O60: Halted, and schedules of every other event. -/
theorem test_witness_halted : faulted.run = .halted ∧ Event.init ∉ [Event.step, .tick, .load [1]] ∧
    Event.init ∉ [Event.load [], .stop, .keyUp 0, .keyDown 5] := by decide

end Sys2Proof.Tests
end

section
/-! SUPPORT. What the load and the add of an immediate share: their opcodes decoded, and an instruction that
writes one register and goes on. -/

namespace Sys2Proof

open Sys2Proof.Machine

/-! ## Opcodes -/

@[simp] theorem decode_formXNN_ldImm (x : Nibble) (nn : Byte) : decode (formXNN 0x6 x nn) = some (.ldImm x nn) := by
  simp [decode]

@[simp] theorem decode_formXNN_addImm (x : Nibble) (nn : Byte) :
    decode (formXNN 0x7 x nn) = some (.addImm x nn) := by
  simp [decode]

/-! ## Meanings -/

theorem exec_ldImm (x : Nibble) (nn : Byte) (s : State) :
    exec (.ldImm x nn) s = .next (s.writeV x nn).advance := rfl

theorem exec_addImm (x : Nibble) (nn : Byte) (s : State) :
    exec (.addImm x nn) s = .next (s.writeV x (s.readV x + nn)).advance := rfl

/-! ## Writing one register and going on -/

section
variable (s : State) (x : Nibble) (b : Byte)

theorem readV_writeV_advance_same : (s.writeV x b).advance.readV x = b := by
  rw [State.readV_advance, State.readV_writeV, if_pos rfl]

theorem keepsVBut_writeV_advance : KeepsVBut s (s.writeV x b).advance [x] := by
  intro r hr
  have hne : r ≠ x := List.ne_of_not_mem_cons hr
  rw [State.readV_advance, State.readV_writeV, if_neg hne]

theorem completedAt_writeV_advance : CompletedAt s (s.writeV x b).advance (s.pc + 2) := rfl

end

/-! ## A completed instruction -/

section
variable {s t : State} {a : Word}

theorem pc_of_completedAt (h : CompletedAt s t a) : t.pc = a := congrArg State.pc h

theorem steps_of_completedAt (h : CompletedAt s t a) : t.steps = s.steps + 1 := congrArg State.steps h

/-- The frame with PC and STEPS left open. -/
theorem frame_of_completedAt (h : CompletedAt s t a) : t = { s with v := t.v, pc := t.pc, steps := t.steps } := by
  rw [pc_of_completedAt h, steps_of_completedAt h]
  exact h

/-- PC goes on by two bytes, modulo 65536 (40_step_cycle.md R95). -/
theorem pc_toNat_of_completedAt_next (h : CompletedAt s t (s.pc + 2)) :
    t.pc.toNat = (s.pc.toNat + 2) % 65536 := by
  rw [pc_of_completedAt h]
  exact BitVec.toNat_add s.pc 2

end

end Sys2Proof
end

section
/-! PROOFS. The statements on assignment and arithmetic with an immediate (42_arith_logic.md R121, R122). -/

namespace Sys2Proof.Proofs

open Sys2Proof Sys2Proof.Machine

/-- Settles O27: the meaning is one register write and an advance. -/
theorem loadImmediate : Obligations.LoadImmediate := by
  intro x nn s
  have hdone := completedAt_writeV_advance s x nn
  exact ⟨decode_formXNN_ldImm x nn, _, exec_ldImm x nn s, readV_writeV_advance_same s x nn,
    keepsVBut_writeV_advance s x nn, pc_toNat_of_completedAt_next hdone, frame_of_completedAt hdone⟩

/-- Settles O28: as for O27, the byte written being a sum modulo 256; VF is a register like the others. -/
theorem addImmediateWritesNoFlag : Obligations.AddImmediateWritesNoFlag := by
  intro x nn s
  have hdone := completedAt_writeV_advance s x (s.readV x + nn)
  refine ⟨decode_formXNN_addImm x nn, _, exec_addImm x nn s, ?_, keepsVBut_writeV_advance s x _,
    pc_toNat_of_completedAt_next hdone, frame_of_completedAt hdone⟩
  rw [readV_writeV_advance_same]
  exact BitVec.toNat_add (s.readV x) nn

end Sys2Proof.Proofs
end


section
/-! SUPPORT. The load of I: its opcode decoded, its meaning, and what a write of I followed by an advance leaves. -/

namespace Sys2Proof

open Sys2Proof.Machine

@[simp] theorem decode_formNNN_ldI (nnn : Addr12) : decode (formNNN 0xA nnn) = some (.ldI nnn) := by
  simp [decode]

theorem exec_ldI (nnn : Addr12) (s : State) : exec (.ldI nnn) s = .next (s.writeI nnn.toWord).advance := rfl

/-- Widening by zeros keeps the number (00_scope.md R9). -/
theorem Addr12.toNat_toWord (nnn : Addr12) : nnn.toWord.toNat = nnn.toNat :=
  BitVec.toNat_setWidth_of_le (by decide)

/-- PC goes on by two bytes, modulo 65536 (40_step_cycle.md R95). -/
theorem pc_toNat_advance (s : State) : s.advance.pc.toNat = (s.pc.toNat + 2) % 65536 :=
  BitVec.toNat_add s.pc 2

/-- The frame of a write of I: PC and STEPS move by the advance alone, and nothing else but I. -/
theorem frame_writeI_advance (s : State) (a : Word) :
    (s.writeI a).advance = { s with i := a, pc := s.pc + 2, steps := s.steps + 1 } := rfl

end Sys2Proof
end

section
/-! PROOFS. The statement on loading the index register (44_index_memory.md R140). -/

namespace Sys2Proof.Proofs

open Sys2Proof Sys2Proof.Machine

/-- Settles O35: the meaning is a write of I and an advance, and the address written is NNN widened by zeros. -/
theorem loadIndex : Obligations.LoadIndex := by
  intro nnn s
  refine ⟨decode_formNNN_ldI nnn, _, exec_ldI nnn s, ?_, ?_, frame_writeI_advance s nnn.toWord⟩
  · rw [State.advance_i, State.writeI_i, Addr12.toNat_toWord]
  · rw [pc_toNat_advance, State.writeI_pc]

end Sys2Proof.Proofs
end

section
/-! SUPPORT. The legacy machine call: its opcode decoded, its meaning, and what an advance alone leaves. -/

namespace Sys2Proof

open Sys2Proof.Machine

/-- Away from the two opcodes that are CLS and RET, family 0 is SYS (30_encoding.md R76). -/
theorem decode0_of_ne (nnn : Addr12) (hcls : nnn ≠ 0x0E0#12) (hret : nnn ≠ 0x0EE#12) : decode0 nnn = .sys nnn := by
  rw [decode0, if_neg hcls, if_neg hret]

/-- An opcode whose high digit is 0 is keyed by its other twelve bits. -/
@[simp] theorem decode_formNNN_zero (nnn : Addr12) : decode (formNNN 0x0 nnn) = some (decode0 nnn) := by
  simp [decode]

theorem decode_formNNN_sys (nnn : Addr12) (hcls : nnn ≠ 0x0E0#12) (hret : nnn ≠ 0x0EE#12) :
    decode (formNNN 0x0 nnn) = some (.sys nnn) := by
  rw [decode_formNNN_zero, decode0_of_ne nnn hcls hret]

theorem exec_sys (nnn : Addr12) (s : State) : exec (.sys nnn) s = .next s.advance := rfl

/-- The frame of an advance: nothing moves but PC and STEPS. -/
theorem frame_advance (s : State) : s.advance = { s with pc := s.pc + 2, steps := s.steps + 1 } := rfl

end Sys2Proof
end

section
/-! PROOFS. The statement on the legacy machine call (49_legacy_sys.md R180). -/

namespace Sys2Proof.Proofs

open Sys2Proof Sys2Proof.Machine

/-- Settles O53: the meaning is an advance and nothing more, whatever NNN is. -/
theorem sysOnlyAdvances : Obligations.SysOnlyAdvances := by
  intro nnn s
  exact ⟨decode_formNNN_sys nnn, s.advance, exec_sys nnn s, pc_toNat_advance s, frame_advance s⟩

end Sys2Proof.Proofs
end

section
/-! SUPPORT. The decoder and the encoder against each other: an opcode put together again from its family and its
other fields, the second keys encoded, and every instruction decoded (30_encoding.md R74-R81). -/

namespace Sys2Proof

/-! ## An opcode of a known family -/

/-- A nibble is the digit it shows. -/
theorem eq_ofNat_of_toNat {n : Nibble} {k : Nat} (h : n.toNat = k) : n = BitVec.ofNat 4 k := by
  rw [← h, BitVec.ofNat_toNat, BitVec.setWidth_eq]

section
variable {op : Word} {k : Nat} (h : (opF op).toNat = k)
include h

theorem formNNN_of_family : formNNN (BitVec.ofNat 4 k) (opNNN op) = op := by
  rw [← eq_ofNat_of_toNat h, formNNN_fields]

theorem formXNN_of_family : formXNN (BitVec.ofNat 4 k) (opX op) (opNN op) = op := by
  rw [← eq_ofNat_of_toNat h, formXNN_fields]

theorem formXYN_of_family : formXYN (BitVec.ofNat 4 k) (opX op) (opY op) (opN op) = op := by
  rw [← eq_ofNat_of_toNat h, formXYN_fields]

end

/-! ## What a second key decodes to, encoded -/

/-- `i` is a well-formed instruction with the opcode `op`. -/
def Encodes (i : Instr) (op : Word) : Prop := i.wellFormed = true ∧ encode i = op

theorem Encodes.trans {i : Instr} {op op' : Word} (h : Encodes i op) (e : op = op') : Encodes i op' := e ▸ h

theorem encodes_decode0 (nnn : Addr12) : Encodes (decode0 nnn) (formNNN 0x0 nnn) := by
  rw [decode0]
  split
  · rename_i hcls
    exact ⟨rfl, hcls ▸ rfl⟩
  · split
    · rename_i hret
      exact ⟨rfl, hret ▸ rfl⟩
    · rename_i hcls hret
      exact ⟨by simp [Instr.wellFormed, hcls, hret], rfl⟩

theorem encodes_of_decode8 {x y n : Nibble} {i : Instr} (h : decode8 x y n = some i) :
    Encodes i (formXYN 0x8 x y n) := by
  rw [decode8] at h
  split at h
  all_goals cases h
  all_goals
    rename_i hn
    rw [eq_ofNat_of_toNat hn]
    exact ⟨rfl, rfl⟩

theorem encodes_of_decodeE {x : Nibble} {nn : Byte} {i : Instr} (h : decodeE x nn = some i) :
    Encodes i (formXNN 0xE x nn) := by
  rw [decodeE] at h
  repeat' split at h
  all_goals cases h
  all_goals
    subst nn
    exact ⟨rfl, rfl⟩

theorem encodes_of_decodeF {x : Nibble} {nn : Byte} {i : Instr} (h : decodeF x nn = some i) :
    Encodes i (formXNN 0xF x nn) := by
  rw [decodeF] at h
  repeat' split at h
  all_goals cases h
  all_goals
    subst nn
    exact ⟨rfl, rfl⟩

theorem eq_of_decodeN0 {n : Nibble} {i j : Instr} (h : decodeN0 n i = some j) : n = 0 ∧ i = j := by
  rw [decodeN0] at h
  split at h
  · rename_i hn
    exact ⟨hn, Option.some.inj h⟩
  · cases h

/-- No digit is above 15. -/
theorem opF_of_other {op : Word} (h : ∀ k < 15, (opF op).toNat ≠ k) : (opF op).toNat = 15 := by
  have hlt := (opF op).isLt
  by_contra hne
  exact h _ (by omega) rfl

/-! ## Decoding, then encoding, and the other way -/

/-- What the decoder answers is well formed and has the opcode it was read from (30_encoding.md R81). -/
theorem encodes_of_decode {op : Word} {i : Instr} (h : decode op = some i) : Encodes i op := by
  rw [decode] at h
  split at h
  case h_1 hF =>
    cases h
    exact (encodes_decode0 _).trans (formNNN_of_family hF)
  case h_2 hF | h_3 hF | h_11 hF | h_12 hF =>
    cases h
    exact ⟨rfl, formNNN_of_family hF⟩
  case h_4 hF | h_5 hF | h_7 hF | h_8 hF | h_13 hF =>
    cases h
    exact ⟨rfl, formXNN_of_family hF⟩
  case h_6 hF | h_10 hF =>
    obtain ⟨hn, rfl⟩ := eq_of_decodeN0 h
    have hop := formXYN_of_family hF
    rw [hn] at hop
    exact ⟨rfl, hop⟩
  case h_9 hF => exact (encodes_of_decode8 h).trans (formXYN_of_family hF)
  case h_14 hF =>
    cases h
    exact ⟨rfl, formXYN_of_family hF⟩
  case h_15 hF => exact (encodes_of_decodeE h).trans (formXNN_of_family hF)
  case h_16 =>
    have hF : (opF op).toNat = 15 := opF_of_other fun k hk => by interval_cases k <;> assumption
    exact (encodes_of_decodeF h).trans (formXNN_of_family hF)

theorem decode0_of_wellFormed {nnn : Addr12} (h : (Instr.sys nnn).wellFormed = true) : decode0 nnn = .sys nnn := by
  obtain ⟨hcls, hret⟩ : nnn ≠ 0x0E0#12 ∧ nnn ≠ 0x0EE#12 := by simpa [Instr.wellFormed] using h
  exact decode0_of_ne nnn hcls hret

/-- The opcode of a well-formed instruction decodes to it (30_encoding.md R74, R76). -/
theorem decode_encode {i : Instr} (h : i.wellFormed = true) : decode (encode i) = some i := by
  cases i with
  | sys nnn => rw [encode, decode_formNNN_zero, decode0_of_wellFormed h]
  | cls | ret => rfl
  | jp | call | ldI | jpV0 => simp [encode, decode]
  | seImm | sneImm | ldImm | addImm | rnd => simp [encode, decode]
  | seReg | sneReg => simp [encode, decode, decodeN0]
  | ldReg | orReg | andReg | xorReg | addReg | subReg | shr | subnReg | shl => simp [encode, decode, decode8]
  | drw => simp [encode, decode]
  | skp | sknp => simp [encode, decode, decodeE]
  | ldVxDt | ldVxK | ldDtVx | ldStVx | addI | ldFVx | ldBVx | ldMemVx | ldVxMem =>
    simp [encode, decode, decodeF]

end Sys2Proof
end

section
/-! PROOFS. The two directions of the round trip between instructions and opcodes (30_encoding.md R74, R81). -/

namespace Sys2Proof.Proofs

open Sys2Proof

/-- Settles O1: the two bytes make the opcode again, and the opcode decodes to the instruction. -/
theorem encodedBytesDecodeBack : Obligations.EncodedBytesDecodeBack := by
  intro i rest hwf
  simp only [encodeBytes, List.cons_append, List.nil_append, decodeBytes, opcodeOfBytes_hi_lo, decode_encode hwf]

/-- Settles O2: by the families of the decoder, each answer built from the fields of the opcode. -/
theorem legalOpcodeIsReencoded : Obligations.LegalOpcodeIsReencoded :=
  fun _ _ h => encodes_of_decode h

end Sys2Proof.Proofs
end

section
/-! SUPPORT. The rows of the opcode map: an opcode that fits a row, and the second keys that are unknown
(30_encoding.md R74, R76-R81). -/

namespace Sys2Proof

open Sys2Proof.Laws

/-- Every opcode carries the fixed bits of its row (30_encoding.md R74). -/
theorem fits_encode (i : Instr) : i.opcodeRow.fits (encode i) := by
  cases i with
  | sys nnn => exact FixedBits.sys nnn
  | cls => exact FixedBits.cls
  | ret => exact FixedBits.ret
  | jp nnn => exact FixedBits.jp nnn
  | call nnn => exact FixedBits.call nnn
  | seImm x nn => exact FixedBits.seImm x nn
  | sneImm x nn => exact FixedBits.sneImm x nn
  | seReg x y => exact FixedBits.seReg x y
  | ldImm x nn => exact FixedBits.ldImm x nn
  | addImm x nn => exact FixedBits.addImm x nn
  | ldReg x y => exact FixedBits.ldReg x y
  | orReg x y => exact FixedBits.orReg x y
  | andReg x y => exact FixedBits.andReg x y
  | xorReg x y => exact FixedBits.xorReg x y
  | addReg x y => exact FixedBits.addReg x y
  | subReg x y => exact FixedBits.subReg x y
  | shr x y => exact FixedBits.shr x y
  | subnReg x y => exact FixedBits.subnReg x y
  | shl x y => exact FixedBits.shl x y
  | sneReg x y => exact FixedBits.sneReg x y
  | ldI nnn => exact FixedBits.ldI nnn
  | jpV0 nnn => exact FixedBits.jpV0 nnn
  | rnd x nn => exact FixedBits.rnd x nn
  | drw x y n => exact FixedBits.drw x y n
  | skp x => exact FixedBits.skp x
  | sknp x => exact FixedBits.sknp x
  | ldVxDt x => exact FixedBits.ldVxDt x
  | ldVxK x => exact FixedBits.ldVxK x
  | ldDtVx x => exact FixedBits.ldDtVx x
  | ldStVx x => exact FixedBits.ldStVx x
  | addI x => exact FixedBits.addI x
  | ldFVx x => exact FixedBits.ldFVx x
  | ldBVx x => exact FixedBits.ldBVx x
  | ldMemVx x => exact FixedBits.ldMemVx x
  | ldVxMem x => exact FixedBits.ldVxMem x

/-! ## The fields under a mask -/

section
variable {op : Word} {f n : Nibble} {nn : Byte}

theorem opF_of_mask (h : op &&& 0xF000#16 = formNNN f 0) : opF op = f := by
  rw [← formNNN_fields op, formNNN_and_mask] at h
  simpa using congrArg opF h

theorem opF_opNN_of_keyMask (h : op &&& 0xF0FF#16 = formXNN f 0 nn) : opF op = f ∧ opNN op = nn := by
  rw [← formXNN_fields op, formXNN_and_keyMask] at h
  exact ⟨by simpa using congrArg opF h, by simpa using congrArg opNN h⟩

theorem opF_opN_of_keyMask (h : op &&& 0xF00F#16 = formXYN f 0 0 n) : opF op = f ∧ opN op = n := by
  rw [← formXYN_fields op, formXYN_and_keyMask] at h
  exact ⟨by simpa using congrArg opF h, by simpa using congrArg opN h⟩

theorem formNNN_of_mask (h : op &&& 0xF000#16 = formNNN f 0) : formNNN f (opNNN op) = op := by
  rw [← opF_of_mask h, formNNN_fields]

theorem formXNN_of_mask (h : op &&& 0xF000#16 = formNNN f 0) : formXNN f (opX op) (opNN op) = op := by
  rw [← opF_of_mask h, formXNN_fields]

theorem formXYN_of_mask (h : op &&& 0xF000#16 = formNNN f 0) : formXYN f (opX op) (opY op) (opN op) = op := by
  rw [← opF_of_mask h, formXYN_fields]

theorem formXNN_of_keyMask (h : op &&& 0xF0FF#16 = formXNN f 0 nn) : formXNN f (opX op) nn = op := by
  obtain ⟨rfl, rfl⟩ := opF_opNN_of_keyMask h
  exact formXNN_fields op

theorem formXYN_of_keyMask (h : op &&& 0xF00F#16 = formXYN f 0 0 n) : formXYN f (opX op) (opY op) n = op := by
  obtain ⟨rfl, rfl⟩ := opF_opN_of_keyMask h
  exact formXYN_fields op

end

/-- The instruction of the same row with the operands that an opcode holds. -/
def Instr.withFields (op : Word) : Instr → Instr
  | .sys _ => .sys (opNNN op)
  | .cls => .cls
  | .ret => .ret
  | .jp _ => .jp (opNNN op)
  | .call _ => .call (opNNN op)
  | .seImm _ _ => .seImm (opX op) (opNN op)
  | .sneImm _ _ => .sneImm (opX op) (opNN op)
  | .seReg _ _ => .seReg (opX op) (opY op)
  | .ldImm _ _ => .ldImm (opX op) (opNN op)
  | .addImm _ _ => .addImm (opX op) (opNN op)
  | .ldReg _ _ => .ldReg (opX op) (opY op)
  | .orReg _ _ => .orReg (opX op) (opY op)
  | .andReg _ _ => .andReg (opX op) (opY op)
  | .xorReg _ _ => .xorReg (opX op) (opY op)
  | .addReg _ _ => .addReg (opX op) (opY op)
  | .subReg _ _ => .subReg (opX op) (opY op)
  | .shr _ _ => .shr (opX op) (opY op)
  | .subnReg _ _ => .subnReg (opX op) (opY op)
  | .shl _ _ => .shl (opX op) (opY op)
  | .sneReg _ _ => .sneReg (opX op) (opY op)
  | .ldI _ => .ldI (opNNN op)
  | .jpV0 _ => .jpV0 (opNNN op)
  | .rnd _ _ => .rnd (opX op) (opNN op)
  | .drw _ _ _ => .drw (opX op) (opY op) (opN op)
  | .skp _ => .skp (opX op)
  | .sknp _ => .sknp (opX op)
  | .ldVxDt _ => .ldVxDt (opX op)
  | .ldVxK _ => .ldVxK (opX op)
  | .ldDtVx _ => .ldDtVx (opX op)
  | .ldStVx _ => .ldStVx (opX op)
  | .addI _ => .addI (opX op)
  | .ldFVx _ => .ldFVx (opX op)
  | .ldBVx _ => .ldBVx (opX op)
  | .ldMemVx _ => .ldMemVx (opX op)
  | .ldVxMem _ => .ldVxMem (opX op)

@[simp] theorem opcodeRow_withFields (op : Word) (j : Instr) : (j.withFields op).opcodeRow = j.opcodeRow := by
  cases j <;> rfl

/-- An opcode that fits a row is the opcode of an instruction of that row. -/
theorem encode_withFields {op : Word} {j : Instr} (h : j.opcodeRow.fits op) : encode (j.withFields op) = op := by
  cases j with
  | cls | ret => exact (h.symm.trans (BitVec.and_allOnes (w := 16)))
  | sys | jp | call | ldI | jpV0 => exact formNNN_of_mask h
  | seImm | sneImm | ldImm | addImm | rnd => exact formXNN_of_mask h
  | seReg | sneReg | ldReg | orReg | andReg | xorReg => exact formXYN_of_keyMask h
  | addReg | subReg | shr | subnReg | shl => exact formXYN_of_keyMask h
  | drw => exact formXYN_of_mask h
  | skp | sknp | ldVxDt | ldVxK | ldDtVx | ldStVx => exact formXNN_of_keyMask h
  | addI | ldFVx | ldBVx | ldMemVx | ldVxMem => exact formXNN_of_keyMask h

/-- The terms that are no instructions have the opcodes of CLS and RET (30_encoding.md R76). -/
theorem encode_of_not_wellFormed {i : Instr} (h : ¬ i.wellFormed = true) :
    encode i = 0x00E0 ∨ encode i = 0x00EE := by
  cases i with
  | sys nnn =>
    have hnnn : nnn = 0x0E0#12 ∨ nnn = 0x0EE#12 := by
      simpa [Instr.wellFormed, or_iff_not_imp_left] using h
    rcases hnnn with rfl | rfl
    · exact .inl rfl
    · exact .inr rfl
  | _ => exact absurd rfl h

/-! ## Unknown second keys, as numbers -/

theorem decodeN0_eq_none {n : Nibble} {i : Instr} : decodeN0 n i = none ↔ n.toNat ≠ 0 := by
  rw [decodeN0]
  split
  · rename_i hn
    simp [hn]
  · rename_i hn
    simpa using fun e => hn (eq_ofNat_of_toNat e)

theorem decode8_eq_none {x y n : Nibble} :
    decode8 x y n = none ↔ n.toNat ∈ [0x8, 0x9, 0xA, 0xB, 0xC, 0xD, 0xF] := by
  have hlt := n.isLt
  rw [decode8]
  generalize n.toNat = k at hlt
  interval_cases k <;> simp

theorem ite_some_eq_none {c : Prop} [Decidable c] {i : Instr} {o : Option Instr} :
    (if c then some i else o) = none ↔ ¬ c ∧ o = none := by
  split <;> simp_all

theorem decodeE_eq_none {x : Nibble} {nn : Byte} : decodeE x nn = none ↔ nn.toNat ∉ [0x9E, 0xA1] := by
  simp [decodeE, ite_some_eq_none, ← BitVec.toNat_inj]

theorem decodeF_eq_none {x : Nibble} {nn : Byte} :
    decodeF x nn = none ↔ nn.toNat ∉ [0x07, 0x0A, 0x15, 0x18, 0x1E, 0x29, 0x33, 0x55, 0x65] := by
  simp [decodeF, ite_some_eq_none, ← BitVec.toNat_inj]

/-- An opcode is unknown exactly if its family has a second key and that key is unknown. -/
theorem decode_eq_none_iff (op : Word) : decode op = none ↔
    (((opF op).toNat = 5 ∨ (opF op).toNat = 9) ∧ (opN op).toNat ≠ 0) ∨
    ((opF op).toNat = 8 ∧ (opN op).toNat ∈ [0x8, 0x9, 0xA, 0xB, 0xC, 0xD, 0xF]) ∨
    ((opF op).toNat = 14 ∧ (opNN op).toNat ∉ [0x9E, 0xA1]) ∨
    ((opF op).toNat = 15 ∧
      (opNN op).toNat ∉ [0x07, 0x0A, 0x15, 0x18, 0x1E, 0x29, 0x33, 0x55, 0x65]) := by
  have hlt := (opF op).isLt
  rw [← decodeE_eq_none (x := opX op), ← decodeF_eq_none (x := opX op),
    ← decode8_eq_none (x := opX op) (y := opY op), decode]
  generalize (opF op).toNat = k at hlt
  interval_cases k <;> simp [decodeN0_eq_none]

end Sys2Proof
end

section
/-! PROOFS. The decoder as the map of masks and patterns, and the unknown opcodes (30_encoding.md R74-R81). -/

namespace Sys2Proof.Proofs

open Sys2Proof

/-- Settles O3: a decoded opcode is the opcode of its instruction; one that fits a row is the opcode of a term of
that row, which decodes back unless it is one of the two that CLS and RET take. -/
theorem decodeFollowsMaskAndMatch : Obligations.DecodeFollowsMaskAndMatch := by
  refine ⟨fun op i h => ?_, fun op j hfits => ?_⟩
  · exact (encodes_of_decode h).2 ▸ fits_encode i
  · have hop : encode (j.withFields op) = op := encode_withFields hfits
    have hcls : decode 0x00E0 = some .cls := rfl
    have hret : decode 0x00EE = some .ret := rfl
    by_cases hwf : (j.withFields op).wellFormed = true
    · have hdec : decode op = some (j.withFields op) := by
        simpa only [hop] using decode_encode hwf
      refine ⟨j.withFields op, hdec, fun _ => opcodeRow_withFields op j, fun e => ?_, fun e => ?_⟩
      · exact Option.some.inj (hdec.symm.trans (e ▸ hcls))
      · exact Option.some.inj (hdec.symm.trans (e ▸ hret))
    · rcases hop ▸ encode_of_not_wellFormed hwf with rfl | rfl
      · exact ⟨.cls, hcls, fun h => absurd rfl h.1, fun _ => rfl, fun e => absurd e (by decide)⟩
      · exact ⟨.ret, hret, fun h => absurd rfl h.2, fun e => absurd e (by decide), fun _ => rfl⟩

/-- Settles O4: family by family, the digits of the opcode being its fields as numbers. -/
theorem unknownOpcodesByFamily : Obligations.UnknownOpcodesByFamily := by
  intro op
  rw [← opF_toNat, ← opN_toNat, ← opNN_toNat]
  exact decode_eq_none_iff op

/-- Settles O5: each word is evaluated. -/
theorem workedWordsDecode : Obligations.WorkedWordsDecode := by
  unfold Obligations.WorkedWordsDecode
  decide

end Sys2Proof.Proofs
end

section
/-! SUPPORT. The meanings of the instructions as equations, and what any of them does to PC, the registers, memory and
the other elements of the state, each said once. -/

namespace Sys2Proof

open Sys2Proof.Machine

/-! ## Meanings with one answer -/

section
variable (x y : Nibble) (nn : Byte) (nnn : Addr12) (s : State)

theorem exec_cls : exec .cls s = .next (s.writeFB Screen.clear).advance := rfl
theorem exec_jp : exec (.jp nnn) s = .next (s.complete nnn.toWord) := rfl
theorem exec_jpV0 : exec (.jpV0 nnn) s = .next (s.complete (nnn.toWord + (s.readV 0).toWord)) := rfl
theorem exec_seImm : exec (.seImm x nn) s = .next (s.skipIf (s.readV x == nn)) := rfl
theorem exec_sneImm : exec (.sneImm x nn) s = .next (s.skipIf (s.readV x != nn)) := rfl
theorem exec_seReg : exec (.seReg x y) s = .next (s.skipIf (s.readV x == s.readV y)) := rfl
theorem exec_sneReg : exec (.sneReg x y) s = .next (s.skipIf (s.readV x != s.readV y)) := rfl
theorem exec_skp : exec (.skp x) s = .next (s.skipIf (s.keyPressed (s.readV x))) := rfl
theorem exec_sknp : exec (.sknp x) s = .next (s.skipIf (!s.keyPressed (s.readV x))) := rfl
theorem exec_ldReg : exec (.ldReg x y) s = .next (s.writeV x (s.readV y)).advance := rfl
theorem exec_orReg : exec (.orReg x y) s = .next (s.writeV x (s.readV x ||| s.readV y)).advance := rfl
theorem exec_andReg : exec (.andReg x y) s = .next (s.writeV x (s.readV x &&& s.readV y)).advance := rfl
theorem exec_xorReg : exec (.xorReg x y) s = .next (s.writeV x (s.readV x ^^^ s.readV y)).advance := rfl
theorem exec_addReg : exec (.addReg x y) s =
    .next (s.writeFlagged x (carryFlag (s.readV x) (s.readV y)) (s.readV x + s.readV y)).advance := rfl
theorem exec_subReg : exec (.subReg x y) s =
    .next (s.writeFlagged x (notBorrowFlag (s.readV x) (s.readV y)) (s.readV x - s.readV y)).advance := rfl
theorem exec_subnReg : exec (.subnReg x y) s =
    .next (s.writeFlagged x (notBorrowFlag (s.readV y) (s.readV x)) (s.readV y - s.readV x)).advance := rfl
theorem exec_shr : exec (.shr x y) s =
    .next (s.writeFlagged x (shrFlag (s.readV x)) (s.readV x >>> 1)).advance := rfl
theorem exec_shl : exec (.shl x y) s =
    .next (s.writeFlagged x (shlFlag (s.readV x)) (s.readV x <<< 1)).advance := rfl
theorem exec_rnd : exec (.rnd x nn) s =
    .next (s.countDraw.writeV x (Config.drawByte s.draws &&& nn)).advance := rfl
theorem exec_ldVxDt : exec (.ldVxDt x) s = .next (s.writeV x s.dt).advance := rfl
theorem exec_ldVxK : exec (.ldVxK x) s = .next (s.waitKey x).advance := rfl
theorem exec_ldDtVx : exec (.ldDtVx x) s = .next (s.writeDT (s.readV x)).advance := rfl
theorem exec_ldStVx : exec (.ldStVx x) s = .next (s.writeST (s.readV x)).advance := rfl
theorem exec_addI : exec (.addI x) s =
    .next ((s.writeVF (indexOverflowFlag s.i (s.readV x))).writeI (s.i + (s.readV x).toWord)).advance := rfl
theorem exec_ldFVx : exec (.ldFVx x) s = .next (s.writeI (glyphAddress (s.readV x))).advance := rfl

end

/-! ## The two meanings on the call stack -/

/-- 2NNN: the push of its own address, or StackOverflow (41_flow.md R111; 60_exceptions.md R194). -/
theorem exec_call_cases (nnn : Addr12) (s : State) :
    (∃ h : s.sp.val < 16, exec (.call nnn) s = .next
        { s with
          stack := s.stack.set s.sp.val s.pc h, sp := ⟨s.sp.val + 1, Nat.succ_lt_succ h⟩, pc := nnn.toWord,
          steps := s.steps + 1 }) ∨
      (s.sp.val = 16 ∧ exec (.call nnn) s = .next (s.raiseBy .stackOverflow (.call nnn))) := by
  rcases execCall_cases nnn s with ⟨t, hpush, e⟩ | ⟨hpush, e⟩ <;>
    rcases s.push_cases s.pc with ⟨hsp, hnone⟩ | ⟨hlt, u, -⟩
  · rw [hnone] at hpush
    cases hpush
  · rw [State.push_eq_some s.pc hlt] at hpush
    cases hpush
    exact .inl ⟨hlt, e⟩
  · exact .inr ⟨hsp, e⟩
  · rw [State.push_eq_some s.pc hlt] at hpush
    cases hpush

/-- 00EE: the pop and the opcode after the CALL popped, or StackUnderflow (41_flow.md R112; 60_exceptions.md
R195). -/
theorem exec_ret_cases (s : State) :
    (∃ j : Fin 16, s.sp.val = j.val + 1 ∧ exec .ret s = .next
        { s with sp := j.castSucc, pc := s.stack[j] + 2, steps := s.steps + 1 }) ∨
      (s.sp.val = 0 ∧ exec .ret s = .next (s.raiseBy .stackUnderflow .ret)) := by
  rcases s.pop_cases with ⟨hsp, hpop⟩ | ⟨j, t, hsp, hpop, ht, hframe⟩ <;>
    rcases execRet_cases s with ⟨a, u, hpop', e⟩ | ⟨hpop', e⟩ <;> rw [hpop] at hpop' <;> cases hpop'
  · exact .inr ⟨hsp, e⟩
  · have hj : t.sp = j.castSucc := Fin.ext ht
    rw [hframe, hj] at e
    exact .inl ⟨j, hsp, e⟩

/-! ## Completed or faulted -/

/-- `t` is what the instruction leaves where it raises no fault; an instruction that never raises one has its only
answer. -/
def Instr.Completed (s t : State) : Instr → Prop
  | .call nnn => ∃ h : s.sp.val < 16, t = { s with
      stack := s.stack.set s.sp.val s.pc h, sp := ⟨s.sp.val + 1, Nat.succ_lt_succ h⟩, pc := nnn.toWord,
      steps := s.steps + 1 }
  | .ret => ∃ j : Fin 16, s.sp.val = j.val + 1 ∧
      t = { s with sp := j.castSucc, pc := s.stack[j] + 2, steps := s.steps + 1 }
  | .ldBVx x => s.i.toNat + 3 ≤ 4096 ∧
      t = (s.writeMem (Memory.writeBytes s.mem s.i.toNat (bcdDigits (s.readV x)))).advance
  | .ldMemVx x => s.i.toNat + (x.toNat + 1) ≤ 4096 ∧
      t = (s.writeMem (Memory.writeBytes s.mem s.i.toNat (s.readVs x))).advance
  | .ldVxMem x => s.i.toNat + (x.toNat + 1) ≤ 4096 ∧
      t = (s.writeVs (Memory.readBytes s.mem s.i.toNat (x.toNat + 1))).advance
  | .drw x y n => (n.toNat = 0 ∨ s.i.toNat + n.toNat ≤ 4096) ∧
      t = (((s.writeVF (flagByte (spriteDrawing x y n s).1)).writeFB (spriteDrawing x y n s).2).raiseDraw).advance
  | i => exec i s = .next t

/-- The kinds of fault that an instruction itself raises (60_exceptions.md R194, R195, R197). -/
def instrFaults : List FaultKind := [.stackOverflow, .stackUnderflow, .memOutOfBounds]

section
variable {i : Instr} {s t : State}

/-- A meaning takes a fault of its own, or completes. -/
theorem exec_cases (h : exec i s = .next t) :
    (∃ kind ∈ instrFaults, t = s.raiseBy kind i) ∨ i.Completed s t := by
  cases i with
  | call nnn =>
    rcases exec_call_cases nnn s with ⟨hsp, e⟩ | ⟨_, e⟩ <;> cases h.symm.trans e
    · exact .inr ⟨hsp, rfl⟩
    · exact .inl ⟨_, by decide, rfl⟩
  | ret =>
    rcases exec_ret_cases s with ⟨j, hsp, e⟩ | ⟨_, e⟩ <;> cases h.symm.trans e
    · exact .inr ⟨j, hsp, rfl⟩
    · exact .inl ⟨_, by decide, rfl⟩
  | ldBVx x =>
    rcases execLdBVx_cases x s with ⟨hin, e⟩ | ⟨_, e⟩ <;> cases h.symm.trans e
    · exact .inr ⟨hin, rfl⟩
    · exact .inl ⟨_, by decide, rfl⟩
  | ldMemVx x =>
    rcases execLdMemVx_cases x s with ⟨hin, e⟩ | ⟨_, e⟩ <;> cases h.symm.trans e
    · exact .inr ⟨hin, rfl⟩
    · exact .inl ⟨_, by decide, rfl⟩
  | ldVxMem x =>
    rcases execLdVxMem_cases x s with ⟨hin, e⟩ | ⟨_, e⟩ <;> cases h.symm.trans e
    · exact .inr ⟨hin, rfl⟩
    · exact .inl ⟨_, by decide, rfl⟩
  | drw x y n =>
    rcases execDrw_cases x y n s with ⟨hin, e⟩ | ⟨_, _, e⟩ <;> cases h.symm.trans e
    · exact .inr ⟨hin, rfl⟩
    · exact .inl ⟨_, by decide, rfl⟩
  | _ => exact .inr h

/-! ## What a completed instruction leaves -/

/-- It counts one step, leaves FAULT alone, goes on at the next opcode unless it diverts, and changes RUN only if it
is FX0A (41_flow.md R117). -/
theorem Instr.Completed.control (h : i.Completed s t) :
    t.steps = s.steps + 1 ∧ t.fault = s.fault ∧ (¬ i.mayDivert → t.pc = s.pc + 2) ∧
      (t.run ≠ s.run → ∃ x, i = .ldVxK x) := by
  cases i with
  | call =>
    obtain ⟨_, rfl⟩ := h
    exact ⟨rfl, rfl, fun hd => absurd trivial hd, fun hr => absurd rfl hr⟩
  | ret =>
    obtain ⟨_, _, rfl⟩ := h
    exact ⟨rfl, rfl, fun hd => absurd trivial hd, fun hr => absurd rfl hr⟩
  | jp | jpV0 | seImm | sneImm | seReg | sneReg | skp | sknp =>
    cases h
    exact ⟨rfl, rfl, fun hd => absurd trivial hd, fun hr => absurd rfl hr⟩
  | ldVxK x =>
    cases h
    exact ⟨rfl, rfl, fun _ => rfl, fun _ => ⟨x, rfl⟩⟩
  | ldBVx | ldMemVx | ldVxMem | drw =>
    obtain ⟨_, rfl⟩ := h
    exact ⟨rfl, rfl, fun _ => rfl, fun hr => absurd rfl hr⟩
  | _ =>
    cases h
    exact ⟨rfl, rfl, fun _ => rfl, fun hr => absurd rfl hr⟩

/-- Only FX33 and FX55 replace memory, and by their own bytes at I (20_memory.md R58). -/
theorem Instr.Completed.mem (h : i.Completed s t) :
    t.mem = s.mem ∨
      (∃ x, i = .ldBVx x ∧ s.i.toNat + 3 ≤ 4096 ∧
        t.mem = Memory.writeBytes s.mem s.i.toNat (bcdDigits (s.readV x))) ∨
      ∃ x, i = .ldMemVx x ∧ s.i.toNat + (x.toNat + 1) ≤ 4096 ∧
        t.mem = Memory.writeBytes s.mem s.i.toNat (s.readVs x) := by
  cases i with
  | ldBVx x =>
    obtain ⟨hin, rfl⟩ := h
    exact .inr (.inl ⟨x, rfl, hin, rfl⟩)
  | ldMemVx x =>
    obtain ⟨hin, rfl⟩ := h
    exact .inr (.inr ⟨x, rfl, hin, rfl⟩)
  | call | ldVxMem | drw =>
    obtain ⟨_, rfl⟩ := h
    exact .inl rfl
  | ret =>
    obtain ⟨_, _, rfl⟩ := h
    exact .inl rfl
  | _ =>
    cases h
    exact .inl rfl

/-- Only 00E0 and DXYN replace the pixel buffer (46_display.md R157, R158). -/
theorem Instr.Completed.fb (h : i.Completed s t) :
    t.fb = s.fb ∨ (i = .cls ∧ t.fb = Screen.clear) ∨
      ∃ x y n, i = .drw x y n ∧ t.fb = (spriteDrawing x y n s).2 := by
  cases i with
  | cls =>
    cases h
    exact .inr (.inl ⟨rfl, rfl⟩)
  | drw x y n =>
    obtain ⟨_, rfl⟩ := h
    exact .inr (.inr ⟨x, y, n, rfl, rfl⟩)
  | call | ldBVx | ldMemVx | ldVxMem =>
    obtain ⟨_, rfl⟩ := h
    exact .inl rfl
  | ret =>
    obtain ⟨_, _, rfl⟩ := h
    exact .inl rfl
  | _ =>
    cases h
    exact .inl rfl

/-- Only 2NNN and 00EE move the stack: a push of PC, or a pop (10_state.md R26, R27). -/
theorem Instr.Completed.stack (h : i.Completed s t) :
    (t.stack = s.stack ∧ t.sp = s.sp) ∨
      (∃ nnn, i = .call nnn ∧ t.sp.val = s.sp.val + 1 ∧
        ∃ hsp : s.sp.val < 16, t.stack = s.stack.set s.sp.val s.pc hsp) ∨
      (i = .ret ∧ t.stack = s.stack ∧ s.sp.val = t.sp.val + 1) := by
  cases i with
  | call nnn =>
    obtain ⟨hsp, rfl⟩ := h
    exact .inr (.inl ⟨nnn, rfl, rfl, hsp, rfl⟩)
  | ret =>
    obtain ⟨j, hsp, rfl⟩ := h
    exact .inr (.inr ⟨rfl, rfl, hsp⟩)
  | ldBVx | ldMemVx | ldVxMem | drw =>
    obtain ⟨_, rfl⟩ := h
    exact .inl ⟨rfl, rfl⟩
  | _ =>
    cases h
    exact .inl ⟨rfl, rfl⟩

/-- The elements that one instruction each writes, and the input elements that none does (10_state.md R23). -/
theorem Instr.Completed.special (h : i.Completed s t) :
    (t.i ≠ s.i → (∃ nnn, i = .ldI nnn) ∨ (∃ x, i = .addI x) ∨ ∃ x, i = .ldFVx x) ∧
      (t.dt ≠ s.dt → ∃ x, i = .ldDtVx x) ∧ (t.st ≠ s.st → ∃ x, i = .ldStVx x) ∧
      (t.kx ≠ s.kx → ∃ x, i = .ldVxK x) ∧ (t.drawf ≠ s.drawf → ∃ x y n, i = .drw x y n) ∧
      (t.draws ≠ s.draws → ∃ x nn, i = .rnd x nn) ∧
      t.beep = s.beep ∧ t.keys = s.keys ∧ t.lastKey = s.lastKey := by
  cases i with
  | ret =>
    obtain ⟨_, _, rfl⟩ := h
    simp
  | call | ldBVx | ldMemVx | ldVxMem | drw =>
    obtain ⟨_, rfl⟩ := h
    simp
  | _ =>
    cases h
    simp

/-- No register is written outside the row of the table (10_state.md R23). -/
theorem Instr.Completed.readV (h : i.Completed s t) {r : Nibble} (hr : ¬ i.mayWriteV r) :
    t.readV r = s.readV r := by
  cases i with
  | ldImm | addImm | rnd | ldVxDt | ldReg | orReg | andReg | xorReg =>
    cases h
    exact (State.readV_writeV _ _ r _).trans (if_neg hr)
  | addReg | subReg | subnReg | shr | shl =>
    cases h
    obtain ⟨hx, hvf⟩ := not_or.mp hr
    exact (State.readV_writeFlagged _ _ r _ _).trans ((if_neg hx).trans (if_neg hvf))
  | addI =>
    cases h
    exact (State.readV_writeVF _ r _).trans (if_neg hr)
  | drw =>
    obtain ⟨_, rfl⟩ := h
    exact (State.readV_writeVF _ r _).trans (if_neg hr)
  | ldVxMem x =>
    obtain ⟨_, rfl⟩ := h
    have hlt : ¬ r.toNat < (Memory.readBytes s.mem s.i.toNat (x.toNat + 1)).length := by
      have : ¬ r.toNat ≤ x.toNat := hr
      simpa using by omega
    exact (State.readV_writeVs s _ r).trans (dif_neg hlt)
  | call | ldBVx | ldMemVx =>
    obtain ⟨_, rfl⟩ := h
    rfl
  | ret =>
    obtain ⟨_, _, rfl⟩ := h
    rfl
  | _ =>
    cases h
    rfl

end

end Sys2Proof
end

section
/-! PROOFS. What every instruction leaves alone: its frame over registers, memory, the special elements, PC, RUN and
STEPS (10_state.md R20-R38; 41_flow.md R117). -/

namespace Sys2Proof.Proofs

open Sys2Proof Sys2Proof.Machine

/-- Settles O15: a fault writes no register, and a completed instruction those of its row. -/
theorem registersOutsideRowKept : Obligations.RegistersOutsideRowKept := by
  intro i s t r h hr
  rcases exec_cases h with ⟨kind, -, rfl⟩ | hdone
  · exact State.readV_raiseBy s kind i r
  · exact hdone.readV hr

/-- Settles O16: memory is replaced by FX33 and FX55 alone, and an address outside their bytes reads as before. -/
theorem memoryOutsideStoresKept : Obligations.MemoryOutsideStoresKept := by
  intro i s t a h ha
  rcases exec_cases h with ⟨kind, -, rfl⟩ | hdone
  · rfl
  · rcases hdone.mem with hmem | ⟨x, rfl, -, hmem⟩ | ⟨x, rfl, -, hmem⟩ <;> rw [hmem]
    · have hout : ¬ (s.i.toNat ≤ a ∧ a ≤ s.i.toNat + 2) := ha
      exact Memory.read_writeBytes_outside (by rw [length_bcdDigits]; omega)
    · have hout : ¬ (s.i.toNat ≤ a ∧ a ≤ s.i.toNat + x.toNat) := ha
      exact Memory.read_writeBytes_outside (by rw [State.length_readVs]; omega)

/-- Settles O17: a fault writes none of these elements, and a completed instruction only its own. -/
theorem specialStateWriters : Obligations.SpecialStateWriters := by
  intro i s t h
  rcases exec_cases h with ⟨kind, -, rfl⟩ | hdone
  · simp
  · obtain ⟨hi, hdt, hst, hkx, hdrawf, hdraws, hbeep, hkeys, hlast⟩ := hdone.special
    refine ⟨hi, fun hne => ?_, fun hne => ?_, hdt, hst, hkx, hdrawf, fun hne => ?_, hdraws, hbeep, hkeys, hlast⟩
    · rcases hdone.stack with ⟨hstack, hsp⟩ | ⟨nnn, hcall, -⟩ | ⟨hret, -⟩
      · exact absurd hne (not_or.mpr ⟨not_not.mpr hsp, not_not.mpr hstack⟩)
      · exact .inl ⟨nnn, hcall⟩
      · exact .inr hret
    · rcases hdone.stack with ⟨hstack, -⟩ | ⟨nnn, hcall, -⟩ | ⟨-, hstack, -⟩
      · exact absurd hstack hne
      · exact ⟨nnn, hcall⟩
      · exact absurd hstack hne
    · rcases hdone.fb with hfb | ⟨hcls, -⟩ | ⟨x, y, n, hdrw, -⟩
      · exact absurd hfb hne
      · exact .inl hcls
      · exact .inr ⟨x, y, n, hdrw⟩

/-- Settles O18: the meaning answers, and completes or takes a fault of its own. -/
theorem pcRunAndStepsOfEveryInstruction : Obligations.PcRunAndStepsOfEveryInstruction := by
  intro i s
  obtain ⟨t, ht⟩ := exec_next i s
  refine ⟨t, ht, ?_⟩
  rcases exec_cases ht with ⟨kind, -, rfl⟩ | hdone
  · exact .inr ⟨kind, rfl⟩
  · exact .inl hdone.control

end Sys2Proof.Proofs
end

section
/-! PROOFS. The step cycle and the faults of the fetch and the decoder (40_step_cycle.md R92, R96; 60_exceptions.md
R191, R192, R196). -/

namespace Sys2Proof.Proofs

open Sys2Proof Sys2Proof.Machine

/-- Settles O6: the fetch answers the opcode, high byte first, and the step runs it. -/
theorem stepRunsDecodedOpcode : Obligations.StepRunsDecodedOpcode := by
  intro s i hr hpc hdec
  exact (step_of_fetch hr (State.fetch_eq_some hpc)).trans (runOpcode_of_decode s hdec)

/-- Settles O7: the opcode is fetched and the decoder refuses it. -/
theorem unknownOpcodeIsTaken : Obligations.UnknownOpcodeIsTaken := by
  intro s op hr hpc hop hdec
  subst hop
  exact ⟨_, (step_of_fetch hr (State.fetch_eq_some hpc)).trans (runOpcode_of_unknown s hdec), rfl⟩

/-- Settles O8: nothing can be fetched. -/
theorem pcOutOfBoundsIsTaken : Obligations.PcOutOfBoundsIsTaken := by
  intro s hr hpc
  exact ⟨_, step_of_pc_out hr hpc, rfl⟩

/-- Settles O9: the step cycle executes in Running alone. -/
theorem stepIdlesOutsideRunning : Obligations.StepIdlesOutsideRunning :=
  fun _ => step_of_not_running

/-- A completed instruction that started in Running does not halt the machine: only FX0A changes RUN. -/
theorem run_ne_halted_of_completed {i : Instr} {s t : State} (hrun : s.run = .running) (h : exec i s = .next t)
    (hdone : i.Completed s t) : t.run ≠ .halted := by
  obtain ⟨-, -, -, hwait⟩ := hdone.control
  intro hhalt
  obtain ⟨x, rfl⟩ := hwait (by rw [hhalt, hrun]; decide)
  cases (exec_ldVxK x s).symm.trans h
  cases hhalt

/-- Settles O10: a step is idle, takes the fault of the fetch or of the decoder, or is the meaning of an
instruction. -/
theorem stepCompletesOrFaults : Obligations.StepCompletesOrFaults := by
  intro s
  rcases step_cases s with ⟨hr, e⟩ | ⟨hr, -, e⟩ | ⟨hr, -, op, -, -, e⟩ | ⟨hr, -, op, i, -, -, e⟩
  · exact ⟨s, e, fun _ => rfl, fun h => absurd h hr⟩
  · exact ⟨_, e, fun h => absurd hr h, fun _ => .inr ⟨_, _, rfl⟩⟩
  · exact ⟨_, e, fun h => absurd hr h, fun _ => .inr ⟨_, _, rfl⟩⟩
  · obtain ⟨t, ht⟩ := exec_next i s
    refine ⟨t, e.trans ht, fun h => absurd hr h, fun _ => ?_⟩
    rcases exec_cases ht with ⟨kind, -, rfl⟩ | hdone
    · exact .inr ⟨kind, _, rfl⟩
    · obtain ⟨hsteps, hfault, -⟩ := hdone.control
      exact .inl ⟨hsteps, hfault, run_ne_halted_of_completed hr ht hdone⟩

end Sys2Proof.Proofs
end

section
/-! SUPPORT. The invariant, part by part, over a fault, a completed instruction and an event. -/

namespace Sys2Proof

open Sys2Proof.Machine

variable {i : Instr} {s t : State}

/-- In a good state that is not halted there is no fault record. -/
theorem fault_eq_none_of_running (h : FaultAgrees s) (hr : s.run ≠ .halted) : s.fault = none :=
  Option.eq_none_iff_forall_ne_some.mpr fun r e => hr (h r e).1

theorem faultAgrees_of_eq_none (h : s.fault = none) : FaultAgrees s := fun r e => by
  rw [h] at e
  cases e

/-- A fault taken: the record is the one that agrees with the halted machine. -/
theorem faultAgrees_raiseFault {kind : FaultKind} {opcode : Option Word} (hkind : kind ≠ .pcNotInteger)
    (hop : opcode = none ↔ kind = .pcOutOfBounds) : FaultAgrees (s.raiseFault kind opcode) := by
  intro r e
  cases e
  exact ⟨rfl, rfl, rfl, hkind, hop⟩

/-- Taking a fault keeps the invariant. -/
theorem Inv.raiseFault (h : Inv s) {kind : FaultKind} {opcode : Option Word} (hkind : kind ≠ .pcNotInteger)
    (hop : opcode = none ↔ kind = .pcOutOfBounds) : Inv (s.raiseFault kind opcode) where
  mem := h.mem
  fb := h.fb
  pc := h.pc
  stack := h.stack
  fault := faultAgrees_raiseFault hkind hop

/-- A fault that the instruction itself raises keeps the invariant. -/
theorem Inv.raiseBy (h : Inv s) {kind : FaultKind} (hkind : kind ∈ instrFaults) : Inv (s.raiseBy kind i) := by
  have hne : kind ≠ .pcNotInteger ∧ kind ≠ .pcOutOfBounds := by
    constructor <;> rintro rfl <;> revert hkind <;> decide
  exact h.raiseFault hne.1 ⟨nofun, fun e => absurd e hne.2⟩

/-! ## A completed instruction -/

/-- Drawing keeps the canonical form of the pixel buffer. -/
theorem wf_spriteDrawing {x y n : Nibble} (h : Screen.wf s.fb = true) :
    Screen.wf (spriteDrawing x y n s).2 = true := by
  rw [spriteDrawing, drawRows_eq]
  exact wf_foldl_flip _ spritePixels_lt _ h

theorem Instr.Completed.wf_mem (hdone : i.Completed s t) (h : Memory.wf s.mem = true) : Memory.wf t.mem = true := by
  rcases hdone.mem with hmem | ⟨x, -, hin, hmem⟩ | ⟨x, -, hin, hmem⟩ <;> rw [hmem]
  · exact h
  · exact Memory.wf_writeBytes _ h (.inr hin)
  · exact Memory.wf_writeBytes _ h (.inr (by rw [State.length_readVs]; exact hin))

theorem Instr.Completed.wf_fb (hdone : i.Completed s t) (h : Screen.wf s.fb = true) : Screen.wf t.fb = true := by
  rcases hdone.fb with hfb | ⟨-, hfb⟩ | ⟨x, y, n, -, hfb⟩ <;> rw [hfb]
  · exact h
  · rfl
  · exact wf_spriteDrawing h

theorem toNat_add_le {a k : Word} (ha : a.toNat ≤ 0xFFE) (hk : k.toNat ≤ 0x100) : (a + k).toNat ≤ 0x10FE := by
  rw [BitVec.toNat_add]
  omega

theorem toNat_pc_skipIf_le (c : Bool) (hpc : s.pc.toNat ≤ 0xFFE) : (s.skipIf c).pc.toNat ≤ 0x10FE := by
  cases c
  · exact toNat_add_le (k := 2) hpc (by decide)
  · exact toNat_add_le (k := 4) hpc (by decide)

/-- NNN plus a byte, not wrapped to 12 bits (44_index_memory.md R141). -/
theorem toNat_offset_jump (nnn : Addr12) (b : Byte) : (nnn.toWord + b.toWord).toNat = nnn.toNat + b.toNat := by
  have hb : b.toWord.toNat = b.toNat := BitVec.toNat_setWidth_of_le (by decide)
  have hnnn := nnn.isLt
  have hbyte := b.isLt
  rw [BitVec.toNat_add, Addr12.toNat_toWord, hb]
  omega

/-- Where a completed instruction fetched inside memory goes on: the furthest is NNN + V0 (10_state.md R25). -/
theorem Instr.Completed.pc_le (hdone : i.Completed s t) (hpc : s.pc.toNat ≤ 0xFFE) (hstack : StackHoldsFetched s) :
    t.pc.toNat ≤ 0x10FE := by
  obtain ⟨-, -, hadvance, -⟩ := hdone.control
  have hnext : ¬ i.mayDivert → t.pc.toNat ≤ 0x10FE := fun hd => by
    rw [hadvance hd]
    exact toNat_add_le hpc (by decide)
  have haddr (nnn : Addr12) : nnn.toWord.toNat ≤ 0x10FE := by
    have := nnn.isLt
    rw [Addr12.toNat_toWord]
    omega
  cases i with
  | jp nnn =>
    cases hdone
    exact haddr nnn
  | call nnn =>
    obtain ⟨_, rfl⟩ := hdone
    exact haddr nnn
  | ret =>
    obtain ⟨j, hsp, rfl⟩ := hdone
    have hslot : s.stack[j].toNat ≤ 0xFFE := hstack j (by omega)
    exact toNat_add_le (k := 2) hslot (by decide)
  | jpV0 nnn =>
    cases hdone
    have hnnn := nnn.isLt
    have hbyte := (s.readV 0).isLt
    refine (toNat_offset_jump nnn (s.readV 0)).trans_le ?_
    omega
  | seImm | sneImm | seReg | sneReg | skp | sknp =>
    cases hdone
    exact toNat_pc_skipIf_le _ hpc
  | _ => exact hnext id

/-- A push adds the address of an instruction that was fetched; a pop frees a slot (10_state.md R26). -/
theorem Instr.Completed.stackHoldsFetched (hdone : i.Completed s t) (hpc : s.pc.toNat ≤ 0xFFE)
    (h : StackHoldsFetched s) : StackHoldsFetched t := by
  intro j hj
  rcases hdone.stack with ⟨hstack, hsp⟩ | ⟨nnn, -, hsp, hlt, hstack⟩ | ⟨-, hstack, hsp⟩
  · rw [hstack]
    exact h j (hsp ▸ hj)
  · simp only [hstack, Fin.getElem_fin, Vector.getElem_set]
    split
    · exact hpc
    · exact h j (by omega)
  · rw [hstack]
    exact h j (by omega)

/-- An instruction fetched inside memory in Running keeps the invariant. -/
theorem Inv.exec (h : Inv s) (hr : s.run = .running) (hpc : s.pc.toNat ≤ 0xFFE) (he : exec i s = .next t) :
    Inv t := by
  rcases exec_cases he with ⟨kind, hkind, rfl⟩ | hdone
  · exact h.raiseBy hkind
  · obtain ⟨-, hfault, -⟩ := hdone.control
    have hnone : s.fault = none := fault_eq_none_of_running h.fault (by rw [hr]; decide)
    exact {
      mem := hdone.wf_mem h.mem
      fb := hdone.wf_fb h.fb
      pc := hdone.pc_le hpc h.stack
      stack := hdone.stackHoldsFetched hpc h.stack
      fault := faultAgrees_of_eq_none (hfault.trans hnone) }

/-- A step keeps the invariant. -/
theorem Inv.step (h : Inv s) (hs : step s = .next t) : Inv t := by
  rcases step_cases s with ⟨-, e⟩ | ⟨-, -, e⟩ | ⟨-, -, op, -, -, e⟩ | ⟨hr, hpc, op, i, -, -, e⟩
  · cases hs.symm.trans e
    exact h
  · cases hs.symm.trans e
    exact h.raiseFault nofun ⟨fun _ => rfl, fun _ => rfl⟩
  · cases hs.symm.trans e
    exact h.raiseFault nofun ⟨nofun, nofun⟩
  · exact h.exec hr hpc (e.symm.trans hs)

/-! ## Events -/

/-- The invariant reads no timer, key, flag or register; RUN only through the fault record. -/
theorem Inv.of_same (h : Inv s) (hmem : t.mem = s.mem) (hfb : t.fb = s.fb) (hpc : t.pc = s.pc)
    (hstack : t.stack = s.stack) (hsp : t.sp = s.sp) (hfault : FaultAgrees t) : Inv t where
  mem := hmem ▸ h.mem
  fb := hfb ▸ h.fb
  pc := hpc ▸ h.pc
  stack := fun j hj => hstack ▸ h.stack j (hsp ▸ hj)
  fault := hfault

/-- The invariant at reset (10_state.md R40). -/
theorem inv_reset : Inv State.reset where
  mem := rfl
  fb := rfl
  pc := by decide
  stack := fun j hj => absurd hj (Nat.not_lt_zero j.val)
  fault := faultAgrees_of_eq_none rfl

theorem Inv.onLoad (h : Inv s) (rom : List Byte) : Inv (onLoad rom s).1 := by
  rcases onLoad_cases rom s with ⟨-, e⟩ | ⟨hlen, e⟩ <;> rw [e]
  · exact h
  · exact {
      mem := Memory.wf_writeBytes rom h.mem (.inr (by simp only [Config.progBase, Config.memSize]; omega))
      fb := h.fb
      pc := h.pc
      stack := h.stack
      fault := h.fault }

theorem Inv.onTick (h : Inv s) : Inv (onTick s).1 := by
  by_cases hr : s.run = .halted
  · rw [onTick_of_halted hr]
    exact h
  · rw [onTick_of_not_halted hr]
    exact h.of_same rfl rfl rfl rfl rfl h.fault

theorem Inv.onKeyDown (h : Inv s) (k : Nibble) : Inv (onKeyDown k s) := by
  by_cases hr : s.run = .waitingForKey
  · have hnone : s.fault = none := fault_eq_none_of_running h.fault (by rw [hr]; decide)
    rw [onKeyDown_of_waiting k hr]
    exact h.of_same rfl rfl rfl rfl rfl (faultAgrees_of_eq_none hnone)
  · rw [onKeyDown_of_not_waiting k hr]
    exact h.of_same rfl rfl rfl rfl rfl h.fault

/-- STOP halts a machine that may hold no record, and leaves one that is there (40_step_cycle.md R100). -/
theorem Inv.onStop (h : Inv s) : Inv (onStop s) :=
  h.of_same rfl rfl rfl rfl rfl fun r e => ⟨rfl, (h.fault r e).2⟩

theorem handle_step_inv {out : List Output} (h : handle .step s = .next (t, out)) : step s = .next t ∧ out = [] := by
  rw [handle] at h
  split at h
  · rename_i u e
    cases h
    exact ⟨e, rfl⟩
  · cases h
  · cases h

/-- Every event keeps the invariant. -/
theorem Inv.handle (h : Inv s) {e : Event} {out : List Output} (he : handle e s = .next (t, out)) : Inv t := by
  cases e with
  | init =>
    cases he
    exact inv_reset.of_same rfl rfl rfl rfl rfl inv_reset.fault
  | load rom =>
    have hload := h.onLoad rom
    rwa [Host.Outcome.next.inj he] at hload
  | step => exact h.step (handle_step_inv he).1
  | tick =>
    have htick := h.onTick
    rwa [Host.Outcome.next.inj he] at htick
  | keyDown k =>
    cases he
    exact h.onKeyDown k
  | keyUp k =>
    cases he
    exact h.of_same rfl rfl rfl rfl rfl h.fault
  | stop =>
    cases he
    exact h.onStop

end Sys2Proof
end

section
/-! PROOFS. The invariant at reset, over a step and over a schedule. -/

namespace Sys2Proof.Proofs

open Sys2Proof Sys2Proof.Machine

/-- Settles O12: both lists are empty, no slot is occupied, and there is no record. -/
theorem resetMeetsInvariant : Obligations.ResetMeetsInvariant := inv_reset

/-- Settles O13: idle, one of the two faults before execution, or an instruction fetched inside memory. -/
theorem stepKeepsInvariant : Obligations.StepKeepsInvariant :=
  fun _ _ h hs => h.step hs

/-- Settles O14: by induction on the schedule, each event keeping the invariant. -/
theorem scheduleKeepsInvariant : Obligations.ScheduleKeepsInvariant := by
  intro es
  induction es with
  | nil =>
    intro s t out h hrun
    cases hrun
    exact h
  | cons e es ih =>
    intro s t out h hrun
    obtain ⟨u, _, _, hhandle, hrest, -⟩ := runEvents_cons_inv hrun
    exact ih u t _ (h.handle hhandle) hrest

end Sys2Proof.Proofs
end

section
/-! SUPPORT. A skip as one case split on its condition, and the numbers of PC after a jump or a skip. -/

namespace Sys2Proof

open Sys2Proof.Machine

variable (s : State)

/-- Completing at an address writes no register, and nothing else but PC and STEPS. -/
theorem frame_complete (a : Word) :
    KeepsVBut s (s.complete a) [] ∧ CompletedAt s (s.complete a) (s.complete a).pc :=
  ⟨fun _ _ => rfl, rfl⟩

/-- A skip goes past the next opcode exactly if its condition holds (10_state.md R25). -/
theorem skipIf_spec {c : Bool} {p : Prop} (h : c = true ↔ p) :
    (p → (s.skipIf c).pc = s.pc + 4) ∧ (¬ p → (s.skipIf c).pc = s.pc + 2) ∧
      KeepsVBut s (s.skipIf c) [] ∧ CompletedAt s (s.skipIf c) (s.skipIf c).pc := by
  refine ⟨fun hp => if_pos (h.mpr hp), fun hp => if_neg fun hc => hp (h.mp hc), frame_complete s _⟩

end Sys2Proof
end

section
/-! PROOFS. Jumps, calls, returns and the skips on registers (41_flow.md R110-R116; 44_index_memory.md R141). -/

namespace Sys2Proof.Proofs

open Sys2Proof Sys2Proof.Machine

/-- Settles O19: the meaning completes at NNN. -/
theorem jumpGoesToTarget : Obligations.JumpGoesToTarget := by
  intro nnn s
  exact ⟨decode_encode (i := .jp nnn) rfl, _, exec_jp nnn s, Addr12.toNat_toWord nnn, frame_complete s _⟩

/-- Settles O36: the meaning completes at the sum, which a word holds. -/
theorem jumpWithOffset : Obligations.JumpWithOffset := by
  intro nnn s
  have hpc := toNat_offset_jump nnn (s.readV 0)
  have hnnn := nnn.isLt
  have hbyte := (s.readV 0).isLt
  exact ⟨decode_encode (i := .jpV0 nnn) rfl, _, exec_jpV0 nnn s, hpc, hpc.trans_le (by omega), frame_complete s _⟩

/-- Settles O20: with a free slot the push succeeds, and it writes the slot at SP alone. -/
theorem callPushesItsAddress : Obligations.CallPushesItsAddress := by
  intro nnn s j hj
  refine ⟨decode_encode (i := .call nnn) rfl, ?_⟩
  rcases exec_call_cases nnn s with ⟨hlt, e⟩ | ⟨hfull, -⟩
  · refine ⟨_, e, Addr12.toNat_toWord nnn, rfl, ?_, fun k hk => ?_, rfl⟩
    · simp [hj]
    · have hne : s.sp.val ≠ k.val := fun h => hk (Fin.ext (h.symm.trans hj))
      simp [hne]
  · omega

/-- Settles O21: with no free slot the push fails. -/
theorem callOnFullStackIsTaken : Obligations.CallOnFullStackIsTaken := by
  intro nnn s hsp
  rcases exec_call_cases nnn s with ⟨hlt, -⟩ | ⟨-, e⟩
  · omega
  · exact ⟨_, e, rfl⟩

/-- Settles O22: with an occupied slot the pop answers the top one. -/
theorem returnGoesPastTheCall : Obligations.ReturnGoesPastTheCall := by
  intro s j hj
  refine ⟨rfl, ?_⟩
  rcases exec_ret_cases s with ⟨k, hk, e⟩ | ⟨hempty, -⟩
  · obtain rfl : j = k := Fin.ext (by omega)
    exact ⟨_, e, BitVec.toNat_add _ 2, rfl, rfl⟩
  · omega

/-- Settles O23: with no occupied slot the pop fails. -/
theorem returnOnEmptyStackIsTaken : Obligations.ReturnOnEmptyStackIsTaken := by
  intro s hsp
  rcases exec_ret_cases s with ⟨j, hj, -⟩ | ⟨-, e⟩
  · omega
  · exact ⟨_, e, rfl⟩

/-- Settles O24: the CALL pushes its address at the slot that the RET pops. -/
theorem callThenReturnComesBack : Obligations.CallThenReturnComesBack := by
  intro nnn s hsp
  obtain ⟨j, hj⟩ : ∃ j : Fin 16, s.sp.val = j.val := ⟨⟨_, hsp⟩, rfl⟩
  obtain ⟨-, t, ht, -, htsp, htop, -, hframe⟩ := callPushesItsAddress nnn s j hj
  rcases exec_ret_cases t with ⟨k, hk, e⟩ | ⟨hempty, -⟩
  · obtain rfl : k = j := Fin.ext (by omega)
    rw [show k.castSucc = s.sp from Fin.ext hj.symm] at e
    refine ⟨t, _, ht, e, congrArg (· + 2) htop, rfl, ?_⟩
    rw [hframe]
  · omega

/-- Settles O25: a skip whose condition is equality with NN. -/
theorem skipIfEqualImmediate : Obligations.SkipIfEqualImmediate := by
  intro x nn s
  obtain ⟨hskip, hnext, hframe⟩ := skipIf_spec s (beq_iff_eq (a := s.readV x) (b := nn))
  refine ⟨decode_encode (i := .seImm x nn) rfl, _, exec_seImm x nn s, fun h => ?_, fun h => ?_, hframe⟩
  · exact hskip h ▸ BitVec.toNat_add s.pc 4
  · exact hnext h ▸ BitVec.toNat_add s.pc 2

/-- Settles O26: three skips, two of them on inequality. -/
theorem otherRegisterSkips : Obligations.OtherRegisterSkips := by
  intro x y nn s
  refine ⟨⟨decode_encode (i := .sneImm x nn) rfl, _, exec_sneImm x nn s, ?_⟩,
    ⟨decode_encode (i := .seReg x y) rfl, _, exec_seReg x y s, skipIf_spec s beq_iff_eq⟩,
    ⟨decode_encode (i := .sneReg x y) rfl, _, exec_sneReg x y s, ?_⟩⟩
  · obtain ⟨hskip, hnext, hframe⟩ := skipIf_spec s (bne_iff_ne (a := s.readV x) (b := nn))
    exact ⟨hskip, fun h => hnext (not_not.mpr h), hframe⟩
  · obtain ⟨hskip, hnext, hframe⟩ := skipIf_spec s (bne_iff_ne (a := s.readV x) (b := s.readV y))
    exact ⟨hskip, fun h => hnext (not_not.mpr h), hframe⟩

end Sys2Proof.Proofs
end

section
/-! SUPPORT. An instruction that writes one register and a flag, and the flags by the numbers they compare. -/

namespace Sys2Proof

open Sys2Proof.Machine

/-- What a flagged write and an advance leave: the result in `V[x]`, the flag in VF unless the result stands there
(42_arith_logic.md R120). -/
theorem flagged_spec (s : State) (x : Nibble) (f b : Byte) :
    (s.writeFlagged x f b).advance.readV x = b ∧
      (x ≠ vf → (s.writeFlagged x f b).advance.readV vf = f) ∧
      KeepsVBut s (s.writeFlagged x f b).advance [x, vf] ∧
      CompletedAt s (s.writeFlagged x f b).advance (s.pc + 2) := by
  refine ⟨?_, fun hx => ?_, fun r hr => ?_, rfl⟩ <;> rw [State.readV_advance, State.readV_writeFlagged]
  · rw [if_pos rfl]
  · rw [if_neg hx.symm, if_pos rfl]
  · obtain ⟨hx, hvf⟩ : r ≠ x ∧ r ≠ vf := by simpa using hr
    rw [if_neg hx, if_neg hvf]

/-! ## Flags -/

variable {a b : Byte}

theorem flagByte_of_true {c : Bool} (h : c = true) : flagByte c = 1 := by rw [h]; rfl

theorem flagByte_of_false {c : Bool} (h : c = false) : flagByte c = 0 := by rw [h]; rfl

theorem carryFlag_of_gt (h : 255 < a.toNat + b.toNat) : carryFlag a b = 1 :=
  flagByte_of_true (decide_eq_true h)

theorem carryFlag_of_le (h : a.toNat + b.toNat ≤ 255) : carryFlag a b = 0 :=
  flagByte_of_false (decide_eq_false (by omega))

theorem notBorrowFlag_of_lt (h : a.toNat < b.toNat) : notBorrowFlag a b = 0 :=
  flagByte_of_false (by simp [h])

theorem notBorrowFlag_of_le (h : b.toNat ≤ a.toNat) : notBorrowFlag a b = 1 :=
  flagByte_of_true (by simp [h])

theorem indexOverflowFlag_of_gt {i : Word} (h : 0x0FFF < i.toNat + a.toNat) : indexOverflowFlag i a = 1 :=
  flagByte_of_true (decide_eq_true h)

theorem indexOverflowFlag_of_le {i : Word} (h : i.toNat + a.toNat ≤ 0x0FFF) : indexOverflowFlag i a = 0 :=
  flagByte_of_false (decide_eq_false (by omega))

theorem toNat_shrFlag (a : Byte) : (shrFlag a).toNat = a.toNat % 2 := by
  rw [shrFlag, BitVec.toNat_and]
  exact Nat.and_two_pow_sub_one_eq_mod a.toNat 1

/-- The bit that SHL shifts out stays in its place (43_shifts.md R136). -/
theorem shlFlag_eq (a : Byte) : shlFlag a = if 128 ≤ a.toNat then 0x80 else 0x00 := by
  revert a
  decide

/-! ## Results -/

/-- A difference of bytes, over the integers modulo 256 (42_arith_logic.md R128). -/
theorem toNat_sub_emod (a b : Byte) : ((a - b).toNat : Int) = (a.toNat - b.toNat : Int) % 256 := by
  have ha := a.isLt
  have hb := b.isLt
  rw [BitVec.toNat_sub]
  omega

theorem toNat_shiftRight_one (a : Byte) : (a >>> 1).toNat = a.toNat / 2 := by
  rw [BitVec.toNat_ushiftRight, Nat.shiftRight_one]

theorem toNat_shiftLeft_one (a : Byte) : (a <<< 1).toNat = a.toNat * 2 % 256 := by
  rw [BitVec.toNat_shiftLeft, Nat.shiftLeft_eq, pow_one]

end Sys2Proof
end

section
/-! PROOFS. Copies, bitwise operations, sums, differences and shifts of registers (42_arith_logic.md R123-R129;
43_shifts.md R135, R136). -/

namespace Sys2Proof.Proofs

open Sys2Proof Sys2Proof.Machine

/-- Settles O29: each writes one register, its bits those of the operation. -/
theorem copyAndBitwiseOperations : Obligations.CopyAndBitwiseOperations := by
  intro x y s
  refine ⟨⟨_, exec_ldReg x y s, readV_writeV_advance_same s x _, keepsVBut_writeV_advance s x _, rfl⟩,
    ⟨_, exec_orReg x y s, fun b => ?_, keepsVBut_writeV_advance s x _, rfl⟩,
    ⟨_, exec_andReg x y s, fun b => ?_, keepsVBut_writeV_advance s x _, rfl⟩,
    ⟨_, exec_xorReg x y s, fun b => ?_, keepsVBut_writeV_advance s x _, rfl⟩⟩
  all_goals rw [readV_writeV_advance_same]
  · exact BitVec.getLsbD_or
  · exact BitVec.getLsbD_and
  · exact BitVec.getLsbD_xor

/-- Settles O30: a flagged write of the sum, the flag being its carry. -/
theorem addSetsCarry : Obligations.AddSetsCarry := by
  intro x y s
  obtain ⟨hres, hflag, hkeep⟩ := flagged_spec s x (carryFlag (s.readV x) (s.readV y)) (s.readV x + s.readV y)
  refine ⟨decode_encode (i := .addReg x y) rfl, _, exec_addReg x y s, ?_, fun hx h => ?_, fun hx h => ?_, hkeep⟩
  · rw [hres, BitVec.toNat_add]
  · rw [hflag hx, carryFlag_of_gt h]
  · rw [hflag hx, carryFlag_of_le h]

/-- Settles O31: a flagged write of the difference, the flag being 0 on a borrow. -/
theorem subSetsNotBorrow : Obligations.SubSetsNotBorrow := by
  intro x y s
  obtain ⟨hres, hflag, hkeep⟩ := flagged_spec s x (notBorrowFlag (s.readV x) (s.readV y)) (s.readV x - s.readV y)
  refine ⟨decode_encode (i := .subReg x y) rfl, _, exec_subReg x y s, ?_, fun hx h => ?_, fun hx h => ?_, hkeep⟩
  · rw [hres, toNat_sub_emod]
  · rw [hflag hx, notBorrowFlag_of_lt h]
  · rw [hflag hx, notBorrowFlag_of_le h]

/-- Settles O32: as for O31 with the operands exchanged. -/
theorem subnSetsNotBorrow : Obligations.SubnSetsNotBorrow := by
  intro x y s
  obtain ⟨hres, hflag, hkeep⟩ := flagged_spec s x (notBorrowFlag (s.readV y) (s.readV x)) (s.readV y - s.readV x)
  refine ⟨decode_encode (i := .subnReg x y) rfl, _, exec_subnReg x y s, ?_, fun hx h => ?_, fun hx h => ?_, hkeep⟩
  · rw [hres, toNat_sub_emod]
  · rw [hflag hx, notBorrowFlag_of_lt h]
  · rw [hflag hx, notBorrowFlag_of_le h]

/-- Settles O33: a flagged write of the half, the flag being the remainder. -/
theorem shiftRightHalves : Obligations.ShiftRightHalves := by
  intro x y s
  obtain ⟨hres, hflag, hkeep⟩ := flagged_spec s x (shrFlag (s.readV x)) (s.readV x >>> 1)
  refine ⟨decode_encode (i := .shr x y) rfl, _, exec_shr x y s, ?_, fun hx => ?_, hkeep⟩
  · rw [hres, toNat_shiftRight_one]
  · rw [hflag hx, toNat_shrFlag]

/-- Settles O34: a flagged write of the double, the flag being the bit shifted out, in place. -/
theorem shiftLeftLeaves0x80 : Obligations.ShiftLeftLeaves0x80 := by
  intro x y s
  obtain ⟨hres, hflag, hkeep⟩ := flagged_spec s x (shlFlag (s.readV x)) (s.readV x <<< 1)
  refine ⟨decode_encode (i := .shl x y) rfl, _, exec_shl x y s, ?_, fun hx h => ?_, fun hx h => ?_, hkeep⟩
  · rw [hres, toNat_shiftLeft_one]
  · rw [hflag hx, shlFlag_eq, if_pos h]
  · rw [hflag hx, shlFlag_eq, if_neg (by omega)]

end Sys2Proof.Proofs
end

section
/-! SUPPORT. The three ranges at I, each as one equation in range and one past the end of memory, and what their bytes
are (44_index_memory.md R144-R147). -/

namespace Sys2Proof

open Sys2Proof.Machine

section
variable {x : Nibble} {s : State}

theorem exec_ldBVx_in (h : s.i.toNat + 2 ≤ 0xFFF) : exec (.ldBVx x) s =
    .next (s.writeMem (Memory.writeBytes s.mem s.i.toNat (bcdDigits (s.readV x)))).advance := by
  rcases execLdBVx_cases x s with ⟨-, e⟩ | ⟨hout, -⟩
  · exact e
  · omega

theorem exec_ldBVx_out (h : 0xFFF < s.i.toNat + 2) :
    exec (.ldBVx x) s = .next (s.raiseBy .memOutOfBounds (.ldBVx x)) := by
  rcases execLdBVx_cases x s with ⟨hin, -⟩ | ⟨-, e⟩
  · omega
  · exact e

theorem exec_ldMemVx_in (h : s.i.toNat + x.toNat ≤ 0xFFF) : exec (.ldMemVx x) s =
    .next (s.writeMem (Memory.writeBytes s.mem s.i.toNat (s.readVs x))).advance := by
  rcases execLdMemVx_cases x s with ⟨-, e⟩ | ⟨hout, -⟩
  · exact e
  · omega

theorem exec_ldMemVx_out (h : 0xFFF < s.i.toNat + x.toNat) :
    exec (.ldMemVx x) s = .next (s.raiseBy .memOutOfBounds (.ldMemVx x)) := by
  rcases execLdMemVx_cases x s with ⟨hin, -⟩ | ⟨-, e⟩
  · omega
  · exact e

theorem exec_ldVxMem_in (h : s.i.toNat + x.toNat ≤ 0xFFF) : exec (.ldVxMem x) s =
    .next (s.writeVs (Memory.readBytes s.mem s.i.toNat (x.toNat + 1))).advance := by
  rcases execLdVxMem_cases x s with ⟨-, e⟩ | ⟨hout, -⟩
  · exact e
  · omega

theorem exec_ldVxMem_out (h : 0xFFF < s.i.toNat + x.toNat) :
    exec (.ldVxMem x) s = .next (s.raiseBy .memOutOfBounds (.ldVxMem x)) := by
  rcases execLdVxMem_cases x s with ⟨hin, -⟩ | ⟨-, e⟩
  · omega
  · exact e

end

theorem exec_drw_in {x y n : Nibble} {s : State} (h : n.toNat = 0 ∨ s.i.toNat + n.toNat - 1 ≤ 0xFFF) :
    exec (.drw x y n) s = .next (((s.writeVF (flagByte (spriteDrawing x y n s).1)).writeFB
      (spriteDrawing x y n s).2).raiseDraw).advance := by
  rcases execDrw_cases x y n s with ⟨-, e⟩ | ⟨hn, hout, -⟩
  · exact e
  · omega

theorem exec_drw_out {x y n : Nibble} {s : State} (hn : 0 < n.toNat) (h : 0xFFF < s.i.toNat + n.toNat - 1) :
    exec (.drw x y n) s = .next (s.raiseBy .memOutOfBounds (.drw x y n)) := by
  rcases execDrw_cases x y n s with ⟨hin, -⟩ | ⟨-, -, e⟩
  · omega
  · exact e

/-! ## The bytes stored and loaded -/

/-- The decimal digits of a byte, as numbers (44_index_memory.md R144). -/
theorem toNat_getElem_bcdDigits (a : Byte) :
    (bcdDigits a)[0].toNat = a.toNat / 100 ∧ (bcdDigits a)[1].toNat = a.toNat / 10 % 10 ∧
      (bcdDigits a)[2].toNat = a.toNat % 10 := by
  have h := a.isLt
  simp only [bcdDigits, List.getElem_cons_zero, List.getElem_cons_succ, BitVec.toNat_ofNat]
  omega

/-- `V[k]` stored at `I + k` (44_index_memory.md R145). -/
theorem read_writeBytes_readVs {s : State} {x k : Nibble} (h : k.toNat ≤ x.toNat) :
    Memory.read (Memory.writeBytes s.mem s.i.toNat (s.readVs x)) (s.i.toNat + k.toNat) = s.readV k := by
  have hk : k.toNat < (s.readVs x).length := by
    rw [State.length_readVs]
    omega
  exact (Memory.read_writeBytes_inside hk).trans (s.getElem_readVs x k hk)

/-- `V[k]` loaded from `I + k` for `k` up to `x`, and the other registers as before (44_index_memory.md R146). -/
theorem readV_writeVs_readBytes (s : State) (m : List Host.Cell) (a : Nat) (x k : Nibble) :
    (s.writeVs (Memory.readBytes m a (x.toNat + 1))).readV k =
      if k.toNat ≤ x.toNat then Memory.read m (a + k.toNat) else s.readV k := by
  rw [State.readV_writeVs]
  by_cases h : k.toNat ≤ x.toNat
  · have hk : k.toNat < (Memory.readBytes m a (x.toNat + 1)).length := by
      rw [Memory.length_readBytes]
      omega
    rw [dif_pos hk, if_pos h, Memory.getElem_readBytes]
  · have hk : ¬ k.toNat < (Memory.readBytes m a (x.toNat + 1)).length := by
      rw [Memory.length_readBytes]
      omega
    rw [dif_neg hk, if_neg h]

end Sys2Proof
end

section
/-! PROOFS. The index register, stores and loads at I, and a store that the next fetch sees (44_index_memory.md
R142-R147; 20_memory.md R57, R63). -/

namespace Sys2Proof.Proofs

open Sys2Proof Sys2Proof.Machine

/-- Settles O11: the check of the whole range comes first. -/
theorem dataOutOfBoundsIsTaken : Obligations.DataOutOfBoundsIsTaken :=
  ⟨fun _ _ h => ⟨_, exec_ldBVx_out h, rfl⟩, fun _ _ h => ⟨_, exec_ldMemVx_out h, rfl⟩,
    fun _ _ h => ⟨_, exec_ldVxMem_out h, rfl⟩, fun _ _ _ _ hn h => ⟨_, exec_drw_out hn h, rfl⟩⟩

/-- Settles O37: VF takes the flag, then I the sum. -/
theorem addToIndexFlagsOverflow : Obligations.AddToIndexFlagsOverflow := by
  intro x s
  have hbyte : (s.readV x).toWord.toNat = (s.readV x).toNat := BitVec.toNat_setWidth_of_le (by decide)
  have hflag : (s.writeVF (indexOverflowFlag s.i (s.readV x))).readV vf = indexOverflowFlag s.i (s.readV x) :=
    (State.readV_writeVF s vf _).trans (if_pos rfl)
  refine ⟨decode_encode (i := .addI x) rfl, _, exec_addI x s, ?_, fun h => hflag.trans (indexOverflowFlag_of_gt h),
    fun h => hflag.trans (indexOverflowFlag_of_le h), fun r hr => ?_, rfl⟩
  · rw [State.advance_i, State.writeI_i, BitVec.toNat_add, hbyte]
  · exact (State.readV_writeVF s r _).trans (if_neg (List.ne_of_not_mem_cons hr))

/-- Settles O38: five times a byte fits a word. -/
theorem glyphAddress : Obligations.GlyphAddress := by
  intro x s
  refine ⟨decode_encode (i := .ldFVx x) rfl, _, exec_ldFVx x s, ?_, rfl⟩
  have hlt := (s.readV x).isLt
  have hbyte : (s.readV x).toWord.toNat = (s.readV x).toNat := BitVec.toNat_setWidth_of_le (by decide)
  rw [State.advance_i, State.writeI_i, Machine.glyphAddress, BitVec.toNat_mul, hbyte]
  exact Nat.mod_eq_of_lt (show (s.readV x).toNat * 5 < 65536 by omega)

/-- Settles O39: the three digits are stored in order. -/
theorem decimalDigitsStored : Obligations.DecimalDigitsStored := by
  intro x s h
  have hread (k : Nat) (hk : k < 3) :
      Memory.read (Memory.writeBytes s.mem s.i.toNat (bcdDigits (s.readV x))) (s.i.toNat + k) =
        (bcdDigits (s.readV x))[k]'hk := Memory.read_writeBytes_inside hk
  obtain ⟨hhundreds, htens, hones⟩ := toNat_getElem_bcdDigits (s.readV x)
  refine ⟨decode_encode (i := .ldBVx x) rfl, _, exec_ldBVx_in h,
    (congrArg BitVec.toNat (hread 0 (by decide))).trans hhundreds,
    (congrArg BitVec.toNat (hread 1 (by decide))).trans htens,
    (congrArg BitVec.toNat (hread 2 (by decide))).trans hones, fun a ha => ?_, rfl⟩
  exact Memory.read_writeBytes_outside (by rw [length_bcdDigits]; omega)

/-- Settles O40: byte `k` stored is `V[k]`. -/
theorem registersDumped : Obligations.RegistersDumped := by
  intro x s h
  refine ⟨decode_encode (i := .ldMemVx x) rfl, _, exec_ldMemVx_in h, fun k hk => read_writeBytes_readVs hk,
    fun a ha => ?_, rfl⟩
  exact Memory.read_writeBytes_outside (by rw [State.length_readVs]; omega)

/-- Settles O41: byte `k` loaded goes to `V[k]`. -/
theorem registersLoaded : Obligations.RegistersLoaded := by
  intro x s h
  refine ⟨decode_encode (i := .ldVxMem x) rfl, _, exec_ldVxMem_in h, fun k hk => ?_, fun k hk => ?_, rfl⟩
  · exact (readV_writeVs_readBytes s _ _ x k).trans (if_pos hk)
  · exact (readV_writeVs_readBytes s _ _ x k).trans (if_neg (by omega))

/-- Settles O42: the load reads at `I + k` what the store put there, which is `V[k]`. -/
theorem dumpThenLoadRestores : Obligations.DumpThenLoadRestores := by
  intro x s h
  obtain ⟨-, t, ht, hstored, -, hframe⟩ := registersDumped x s h
  have hi : t.i = s.i := by rw [hframe]
  have hpc : t.pc = s.pc + 2 := by rw [hframe]
  have hv : t.v = s.v := by rw [hframe]
  obtain ⟨-, u, hu, hloaded, hkept, hdone⟩ := registersLoaded x t (hi ▸ h)
  refine ⟨t, u, ht, hu, fun r => ?_, ?_⟩
  · rcases Nat.lt_or_ge x.toNat r.toNat with hr | hr
    · rw [hkept r hr, State.readV_of_v hv]
    · rw [hloaded r hr, hi, hstored r hr]
  · rwa [hpc, BitVec.add_assoc] at hdone

/-- Settles O43: after the store, the two bytes at the new PC are V0 and V1, and the step runs what they decode
to. -/
theorem storeIsSeenByNextFetch : Obligations.StoreIsSeenByNextFetch := by
  intro x s i hrun hx hpc hi hin hdec
  obtain ⟨-, t, ht, hstored, -, hframe⟩ := registersDumped x s hin
  have htrun : t.run = .running := by rw [hframe]; exact hrun
  have htpc : t.pc.toNat = s.i.toNat := by
    have hnext : t.pc = s.pc + 2 := by rw [hframe]
    rw [hnext, BitVec.toNat_add, hi]
    exact Nat.mod_eq_of_lt (show s.pc.toNat + 2 < 65536 by omega)
  have hhi : Memory.read t.mem s.i.toNat = s.readV 0 := hstored 0 (Nat.zero_le _)
  have hlo : Memory.read t.mem (s.i.toNat + 1) = s.readV 1 := hstored 1 hx
  refine ⟨t, ht, stepRunsDecodedOpcode t i htrun (by omega) ?_⟩
  rwa [htpc, hhi, hlo]

end Sys2Proof.Proofs
end

section
/-! SUPPORT. The drawing of DXYN by the pixels that lie under the sprite (46_display.md R156, R157). -/

namespace Sys2Proof

open Sys2Proof.Machine

section
variable (x y n : Nibble) (s : State)

/-- The pixel indexes under the sprite that DXYN draws. -/
def spriteOf : List Nat :=
  spritePixels (s.readV x).toNat (s.readV y).toNat (Memory.readBytes s.mem s.i.toNat n.toNat)

theorem spriteDrawing_eq : spriteDrawing x y n s = (spriteOf x y n s).foldl flipPixel (false, s.fb) :=
  drawRows_eq _ _ _ _

/-- At most fifteen rows on thirty-two: no pixel lies under the sprite twice. -/
theorem nodup_spriteOf : (spriteOf x y n s).Nodup := by
  have hn := n.isLt
  exact nodup_spritePixels _ _ _ (by rw [Memory.length_readBytes, screenHeight]; omega)

theorem read_spriteDrawing (p : Nat) : Screen.read (spriteDrawing x y n s).2 p =
    if p ∈ spriteOf x y n s then Screen.read s.fb p ^^^ 1 else Screen.read s.fb p := by
  rw [spriteDrawing_eq, read_foldl_flip _ (nodup_spriteOf x y n s)]

theorem spriteDrawing_fst_iff :
    (spriteDrawing x y n s).1 = true ↔ ∃ p ∈ spriteOf x y n s, Screen.read s.fb p = 1 := by
  rw [spriteDrawing_eq, fst_foldl_flip _ (nodup_spriteOf x y n s), Bool.false_or, List.any_eq_true]
  simp only [beq_iff_eq]

end

variable {x y n : Nibble} {s : State}

theorem spriteOf_lt {p : Nat} (h : p ∈ spriteOf x y n s) : p < Screen.size := spritePixels_lt p h

/-- The pixels under the sprite are those that the specification's cover names. -/
theorem mem_spriteOf {p : Nat} : p ∈ spriteOf x y n s ↔
    ∃ px py, SpriteCovers s (s.readV x).toNat (s.readV y).toNat n.toNat px py ∧ p = py * screenWidth + px := by
  rw [spriteOf, mem_spritePixels]
  constructor
  · rintro ⟨r, hr, c, hc, hbit, rfl⟩
    rw [Memory.getElem_readBytes] at hbit
    rw [Memory.length_readBytes] at hr
    exact ⟨_, _, ⟨r, hr, c, hc, hbit, rfl, rfl⟩, rfl⟩
  · rintro ⟨_, _, ⟨r, hr, c, hc, hbit, rfl, rfl⟩, rfl⟩
    exact ⟨r, by rwa [Memory.length_readBytes], c, hc, by rwa [Memory.getElem_readBytes], rfl⟩

/-- A property of some pixel under the sprite, in columns and rows. -/
theorem exists_mem_spriteOf {q : Byte → Prop} : (∃ p ∈ spriteOf x y n s, q (Screen.read s.fb p)) ↔
    ∃ px py, SpriteCovers s (s.readV x).toNat (s.readV y).toNat n.toNat px py ∧ q (pixel s px py) := by
  constructor
  · rintro ⟨p, hp, hq⟩
    obtain ⟨px, py, hcov, rfl⟩ := mem_spriteOf.mp hp
    exact ⟨px, py, hcov, hq⟩
  · rintro ⟨px, py, hcov, hq⟩
    exact ⟨_, mem_spriteOf.mpr ⟨px, py, hcov, rfl⟩, hq⟩

/-- The index of a pixel determines its column and its row (46_display.md R156). -/
theorem index_mem_spriteOf {px py : Nat} (hx : px < screenWidth) : py * screenWidth + px ∈ spriteOf x y n s ↔
    SpriteCovers s (s.readV x).toNat (s.readV y).toNat n.toNat px py := by
  rw [mem_spriteOf]
  refine ⟨fun ⟨qx, qy, hcov, e⟩ => ?_, fun hcov => ⟨px, py, hcov, rfl⟩⟩
  have hq : qx < screenWidth := by
    obtain ⟨r, -, c, -, -, rfl, -⟩ := hcov
    exact Nat.mod_lt _ (by decide)
  simp only [screenWidth] at hx hq e
  obtain ⟨rfl, rfl⟩ : px = qx ∧ py = qy := by omega
  exact hcov

/-- What DXYN leaves where its rows lie inside memory (46_display.md R157). -/
theorem exec_drw_spec (h : n.toNat = 0 ∨ s.i.toNat + n.toNat - 1 ≤ 0xFFF) : ∃ t, exec (.drw x y n) s = .next t ∧
    t.fb = (spriteDrawing x y n s).2 ∧ t.readV vf = flagByte (spriteDrawing x y n s).1 ∧ KeepsVBut s t [vf] ∧
    t = { s with v := t.v, fb := t.fb, drawf := true, pc := s.pc + 2, steps := s.steps + 1 } := by
  refine ⟨_, exec_drw_in h, rfl, ?_, fun r hr => ?_, rfl⟩
  · exact (State.readV_writeVF s vf _).trans (if_pos rfl)
  · exact (State.readV_writeVF s r _).trans (if_neg (List.ne_of_not_mem_cons hr))

/-- The collision flag is 1 exactly if a lit pixel lies under the sprite. -/
theorem flagByte_spriteDrawing_iff : flagByte (spriteDrawing x y n s).1 = 1 ↔
    ∃ p ∈ spriteOf x y n s, Screen.read s.fb p = 1 := by
  rw [← spriteDrawing_fst_iff]
  cases (spriteDrawing x y n s).1 <;> decide

theorem flagByte_eq_zero_of_ne_one {c : Bool} (h : flagByte c ≠ 1) : flagByte c = 0 := by
  cases c
  · rfl
  · exact absurd rfl h

end Sys2Proof
end

section
/-! PROOFS. Clearing the screen and drawing sprites (46_display.md R157, R158, R160). -/

namespace Sys2Proof.Proofs

open Sys2Proof Sys2Proof.Machine

/-- Settles O48: an empty list reads dark everywhere. -/
theorem clearScreenDarkensAll : Obligations.ClearScreenDarkensAll :=
  fun s => ⟨rfl, _, exec_cls s, fun _ => rfl, rfl⟩

/-- Settles O45: the drawing flips the pixels under the sprite, each once, and those are the covered ones. -/
theorem drawFlipsCoveredPixels : Obligations.DrawFlipsCoveredPixels := by
  intro x y n s h
  obtain ⟨t, ht, hfb, -, hframe⟩ := exec_drw_spec (x := x) (y := y) h
  refine ⟨decode_encode (i := .drw x y n) rfl, t, ht, fun px py hx _ => ⟨fun hcov => ?_, fun hcov => ?_⟩,
    fun p hp => ?_, hframe⟩
  · rw [pixel, hfb, read_spriteDrawing, if_pos ((index_mem_spriteOf hx).mpr hcov), pixel]
  · rw [pixel, hfb, read_spriteDrawing, if_neg fun hmem => hcov ((index_mem_spriteOf hx).mp hmem), pixel]
  · rw [hfb, read_spriteDrawing, if_neg fun hmem => (spriteOf_lt hmem).not_ge hp]

/-- Settles O46: the drawing notes a lit pixel among those under the sprite. -/
theorem drawFlagsCollision : Obligations.DrawFlagsCollision := by
  intro x y n s h
  obtain ⟨t, ht, -, hflag, -⟩ := exec_drw_spec (x := x) (y := y) h
  have hiff := (flagByte_spriteDrawing_iff (x := x) (y := y) (n := n) (s := s)).trans
    (exists_mem_spriteOf (q := (· = 1)))
  rw [← hflag] at hiff
  refine ⟨t, ht, hiff.mpr, fun hno => ?_⟩
  rw [hflag]
  exact flagByte_eq_zero_of_ne_one fun e => hno (hiff.mp (hflag.trans e))

/-- Settles O47: the second drawing has the same rows at the same place, so it flips the same pixels back, and it
finds lit what was dark. -/
theorem drawTwiceRestoresScreen : Obligations.DrawTwiceRestoresScreen := by
  intro x y n s h hx hy hwf
  obtain ⟨t, ht, htfb, -, htkeep, htframe⟩ := exec_drw_spec (x := x) (y := y) h
  have hi : t.i = s.i := by rw [htframe]
  have hmem : t.mem = s.mem := by rw [htframe]
  have hsprite : spriteOf x y n t = spriteOf x y n s := by
    rw [spriteOf, spriteOf, hi, hmem, htkeep x (by simpa using hx), htkeep y (by simpa using hy)]
  obtain ⟨u, hu, hufb, huflag, -⟩ := exec_drw_spec (x := x) (y := y) (s := t) (n := n) (hi ▸ h)
  have hwft : Screen.wf t.fb = true := htfb ▸ wf_spriteDrawing hwf
  refine ⟨t, u, ht, hu, ?_, ?_, fun hne => ?_⟩
  · refine Screen.ext_read (hufb ▸ wf_spriteDrawing hwft) hwf fun p => ?_
    rw [hufb, read_spriteDrawing, hsprite, htfb, read_spriteDrawing]
    split
    · rw [BitVec.xor_assoc, BitVec.xor_self, BitVec.xor_zero]
    · rfl
  · have hdark : ∀ p ∈ spriteOf x y n s, Screen.read t.fb p = 1 ↔ Screen.read s.fb p = 0 := fun p hp => by
      rw [htfb, read_spriteDrawing, if_pos hp]
      rcases Screen.read_zero_or_one hwf p with e | e <;> rw [e] <;> decide
    rw [huflag, flagByte_spriteDrawing_iff, hsprite, ← exists_mem_spriteOf (q := (· = 0))]
    exact exists_congr fun p => and_congr_right fun hp => hdark p hp
  · rw [huflag] at hne ⊢
    exact flagByte_eq_zero_of_ne_one hne

end Sys2Proof.Proofs
end

section
/-! SUPPORT. Key entries after a key event, events one after another, and the timers over many of them. -/

namespace Sys2Proof

open Sys2Proof.Machine

variable {s t : State}

/-- A key entry after one is set (40_step_cycle.md R98, R99). -/
theorem getElem_keys_set (keys : Vector Bool 16) (k : Nibble) (b : Bool) (j : Fin 16) :
    (keys.set k.toNat b k.isLt)[j] = if j.val = k.toNat then b else keys[j] := by
  simp only [Fin.getElem_fin, Vector.getElem_set, eq_comm]

theorem handle_step_of_not_running (h : s.run ≠ .running) : handle .step s = .next (s, []) := by
  rw [handle, step_of_not_running h]

theorem handle_tick_of_not_halted (h : s.run ≠ .halted) : handle .tick s = .next (s.tickTimers, s.tickOutputs) := by
  rw [handle, onTick_of_not_halted h]

theorem handle_tick_of_halted (h : s.run = .halted) : handle .tick s = .next (s, []) := by
  rw [handle, onTick_of_halted h]

theorem handle_keyDown_of_waiting (k : Nibble) (h : s.run = .waitingForKey) :
    handle (.keyDown k) s = .next ((s.pressKey k).endWait k, []) := by
  rw [handle, onKeyDown_of_waiting k h]

theorem handle_keyDown_of_not_waiting (k : Nibble) (h : s.run ≠ .waitingForKey) :
    handle (.keyDown k) s = .next (s.pressKey k, []) := by
  rw [handle, onKeyDown_of_not_waiting k h]

theorem handle_load (rom : List Byte) (s : State) : handle (.load rom) s = .next (onLoad rom s) := rfl

/-- A schedule answers if its first event does and the rest does from there. -/
theorem runEvents_cons_next {e : Event} {es : List Event} {u : State} {out more : List Output}
    (he : handle e s = .next (t, out)) (hes : runEvents es t = .next (u, more)) :
    runEvents (e :: es) s = .next (u, out ++ more) := by
  rw [runEvents_cons he, hes]

/-- Idle steps before a schedule change nothing (40_step_cycle.md R96). -/
theorem runEvents_idle_steps (h : s.run ≠ .running) (es : List Event) {u : State} {out : List Output}
    (hes : runEvents es s = .next (u, out)) (n : Nat) :
    runEvents (List.replicate n .step ++ es) s = .next (u, out) := by
  induction n with
  | zero => exact hes
  | succ n ih => exact runEvents_cons_next (handle_step_of_not_running h) ih

/-- A byte is 0 exactly if its number is. -/
theorem bne_zero_iff (b : Byte) : (b != 0) = true ↔ 0 < b.toNat := by
  rw [bne_iff_ne, ne_eq, ← BitVec.toNat_inj, Nat.pos_iff_ne_zero]
  rfl

/-- What `n` TICKs leave of `s`, in numbers (10_state.md R28). -/
structure TickedBy (n : Nat) (s t : State) : Prop where
  dt : t.dt.toNat = s.dt.toNat - n
  st : t.st.toNat = s.st.toNat - n
  beep : t.beep = true ↔ 0 < t.st.toNat
  frame : t = { s with dt := t.dt, st := t.st, beep := t.beep, drawf := false }

theorem tickedBy_one (s : State) : TickedBy 1 s s.tickTimers where
  dt := toNat_countDown s.dt
  st := toNat_countDown s.st
  beep := bne_zero_iff _
  frame := rfl

/-- A TICK before the others. -/
theorem TickedBy.tick_first {n : Nat} (h : TickedBy n s.tickTimers t) : TickedBy (n + 1) s t where
  dt := by
    rw [h.dt, (tickedBy_one s).dt]
    omega
  st := by
    rw [h.st, (tickedBy_one s).st]
    omega
  beep := h.beep
  frame := h.frame

/-- Outside Halted any number of TICKs answers, by induction on their number (40_step_cycle.md R97). -/
theorem runEvents_ticks (n : Nat) : ∀ s : State, s.run ≠ .halted →
    ∃ t out, runEvents (List.replicate (n + 1) .tick) s = .next (t, out) ∧ TickedBy (n + 1) s t := by
  induction n with
  | zero =>
    intro s h
    exact ⟨_, _, runEvents_cons_next (handle_tick_of_not_halted h) rfl, tickedBy_one s⟩
  | succ n ih =>
    intro s h
    obtain ⟨t, out, hrun, hticked⟩ := ih s.tickTimers h
    exact ⟨t, _, runEvents_cons_next (handle_tick_of_not_halted h) hrun, hticked.tick_first⟩

/-! ## Halted -/

/-- `t` is `s` but for the input elements and memory. -/
def SameButInput (s t : State) : Prop := t = { s with keys := t.keys, lastKey := t.lastKey, mem := t.mem }

theorem SameButInput.run (h : SameButInput s t) : t.run = s.run := by
  rw [SameButInput] at h
  rw [h]

theorem SameButInput.trans {u : State} (h : SameButInput s t) (h' : SameButInput t u) : SameButInput s u := by
  rw [SameButInput] at h h' ⊢
  rw [h', h]

theorem onLoad_spec (rom : List Byte) (s : State) : SameButInput s (onLoad rom s).1 := by
  rcases onLoad_cases rom s with ⟨-, e⟩ | ⟨-, e⟩ <;> rw [e] <;> rfl

/-- In Halted every event but INITIALIZE leaves all but the input elements and, at a LOAD, memory
(60_exceptions.md R200). -/
theorem handle_of_halted {e : Event} (h : s.run = .halted) (he : e ≠ .init) : ∃ t out,
    handle e s = .next (t, out) ∧ SameButInput s t ∧ (t.mem = s.mem ∨ ∃ rom, e = .load rom) := by
  cases e with
  | init => exact absurd rfl he
  | load rom => exact ⟨_, _, handle_load rom s, onLoad_spec rom s, .inr ⟨rom, rfl⟩⟩
  | step => exact ⟨s, [], handle_step_of_not_running (by rw [h]; decide), rfl, .inl rfl⟩
  | tick => exact ⟨s, [], handle_tick_of_halted h, rfl, .inl rfl⟩
  | keyDown k => exact ⟨_, [], handle_keyDown_of_not_waiting k (by rw [h]; decide), rfl, .inl rfl⟩
  | keyUp k => exact ⟨onKeyUp k s, [], rfl, rfl, .inl rfl⟩
  | stop => exact ⟨s, [], by rw [handle, onStop, ← h], rfl, .inl rfl⟩

/-- The register that a key-wait fills (40_step_cycle.md R98). -/
theorem readV_endWait (s : State) (k r : Nibble) :
    (s.endWait k).readV r = if r = s.kx then k.toByte else s.readV r :=
  s.readV_writeV s.kx r _

end Sys2Proof
end

section
/-! PROOFS. Random bytes, keys and timers (45_random.md R150; 47_input.md R166-R169; 48_timers.md R175-R177). -/

namespace Sys2Proof.Proofs

open Sys2Proof Sys2Proof.Machine

/-- Settles O44: the byte written is the draw under the mask. -/
theorem randomIsMaskedDraw : Obligations.RandomIsMaskedDraw := by
  intro x nn s
  have hx := readV_writeV_advance_same s.countDraw x (Config.drawByte s.draws &&& nn)
  refine ⟨decode_encode (i := .rnd x nn) rfl, _, exec_rnd x nn s, hx, fun b hb => ?_, fun hnn => ?_,
    keepsVBut_writeV_advance s.countDraw x _, rfl⟩
  · rw [hx, BitVec.getLsbD_and, hb, Bool.and_false]
  · rw [hx, hnn]
    exact BitVec.and_zero

/-- Settles O49: two skips on the same condition, one of them negated. -/
theorem keySkips : Obligations.KeySkips := by
  intro x s
  have hkey : s.keyPressed (s.readV x) = true ↔ KeyIsPressed s (s.readV x) := State.keyPressed_iff
  have hnot : (!s.keyPressed (s.readV x)) = true ↔ ¬ KeyIsPressed s (s.readV x) := by
    rw [← hkey, Bool.not_eq_true', Bool.not_eq_true]
  obtain ⟨hskip, hnext, hframe⟩ := skipIf_spec s hnot
  exact ⟨⟨decode_encode (i := .skp x) rfl, _, exec_skp x s, skipIf_spec s hkey⟩,
    ⟨decode_encode (i := .sknp x) rfl, _, exec_sknp x s, hskip, fun h => hnext (not_not.mpr h), hframe⟩⟩

/-- Settles O50: the wait begins, and a step in it is idle. -/
theorem keyWaitSuspends : Obligations.KeyWaitSuspends :=
  fun x s => ⟨decode_encode (i := .ldVxK x) rfl, _, exec_ldVxK x s, step_of_not_running nofun, rfl⟩

/-- Settles O51: the idle steps change nothing, and the press ends the wait. -/
theorem keyPressEndsWait : Obligations.KeyPressEndsWait := by
  intro x k n s
  have hpress := handle_keyDown_of_waiting (s := (s.waitKey x).advance) k rfl
  have hread := readV_endWait ((s.waitKey x).advance.pressKey k) k
  have hidle : (s.waitKey x).advance.run ≠ .running := nofun
  refine ⟨_, _, exec_ldVxK x s, runEvents_idle_steps hidle _ (runEvents_cons_next hpress rfl) n, ?_, fun r hr => ?_,
    rfl, rfl, getElem_keys_set s.keys k true, rfl⟩
  · exact (congrArg BitVec.toNat ((hread x).trans (if_pos rfl))).trans (BitVec.toNat_setWidth_of_le (by decide))
  · exact (hread r).trans (if_neg (List.ne_of_not_mem_cons hr))

/-- Settles O52: one register write and two timer writes. -/
theorem timerInstructions : Obligations.TimerInstructions := by
  intro x s
  exact ⟨⟨decode_encode (i := .ldVxDt x) rfl, _, exec_ldVxDt x s, readV_writeV_advance_same s x _,
      keepsVBut_writeV_advance s x _, rfl⟩,
    ⟨decode_encode (i := .ldDtVx x) rfl, _, exec_ldDtVx x s, rfl⟩,
    ⟨decode_encode (i := .ldStVx x) rfl, _, exec_ldStVx x s, rfl⟩⟩

end Sys2Proof.Proofs
end

section
/-! PROOFS. The events: TICK, keys, STOP, LOAD and INITIALIZE, and schedules of them (40_step_cycle.md R97-R101;
60_exceptions.md R200; 70_reset_and_hazards.md R220). -/

namespace Sys2Proof.Proofs

open Sys2Proof Sys2Proof.Machine

/-- Settles O54: in Halted nothing, and elsewhere one countdown. -/
theorem tickCountsDownAndReports : Obligations.TickCountsDownAndReports := by
  intro s
  refine ⟨handle_tick_of_halted, fun h => ?_⟩
  obtain ⟨hdt, hst, hbeep, hframe⟩ := tickedBy_one s
  exact ⟨_, handle_tick_of_not_halted h, hdt, hst, hbeep, hframe⟩

/-- Settles O55: the countdowns add up, and BEEP follows the last ST. -/
theorem timersDecayOverTicks : Obligations.TimersDecayOverTicks := by
  intro n s h hn
  obtain ⟨m, rfl⟩ := Nat.exists_eq_add_one_of_ne_zero (Nat.ne_of_gt hn)
  obtain ⟨t, out, hrun, hdt, hst, hbeep, hframe⟩ := runEvents_ticks m s h
  refine ⟨t, out, hrun, hdt, hst, ?_, hframe⟩
  rw [← Bool.not_eq_true, hbeep, hst]
  omega

/-- Settles O56: a press outside a wait and a release each set one key entry. -/
theorem keyEventsOutsideWait : Obligations.KeyEventsOutsideWait := by
  intro k s
  exact ⟨fun h => ⟨_, handle_keyDown_of_not_waiting k h, getElem_keys_set s.keys k true, rfl⟩,
    ⟨onKeyUp k s, rfl, getElem_keys_set s.keys k false, rfl⟩⟩

/-- Settles O57: STOP sets RUN, and a step in Halted is idle. -/
theorem stopHalts : Obligations.StopHalts :=
  fun s => ⟨onStop s, rfl, step_of_not_running nofun, rfl⟩

/-- Settles O58: the image is stored byte by byte if it fits, and refused if not. -/
theorem loadCopiesImage : Obligations.LoadCopiesImage := by
  intro rom s
  rcases onLoad_cases rom s with ⟨hlen, e⟩ | ⟨hlen, e⟩ <;> rw [handle_load, e]
  · exact ⟨fun h => absurd h (by omega), fun _ => rfl⟩
  · refine ⟨fun _ => ⟨_, rfl, fun k hk => Memory.read_writeBytes_inside hk, fun a ha => ?_, rfl⟩,
      fun h => absurd h (by omega)⟩
    exact Memory.read_writeBytes_outside ha

/-- Settles O59: the reset state with the input elements and the draw count kept; unlisted memory is the font and
zeros above it. -/
theorem initializeSetsResetValues : Obligations.InitializeSetsResetValues := by
  intro s
  refine ⟨s.initMachine, rfl, fun x => Vector.getElem_replicate _, rfl, rfl, fun j => Vector.getElem_replicate _, rfl,
    rfl, rfl, rfl, rfl, rfl, rfl, rfl, rfl, fun a ha => ?_, fun a ha => ?_, fun _ => rfl, rfl, rfl, rfl⟩
  · exact List.getD_eq_getElem font 0 ha
  · exact List.getD_eq_default font 0 ha

/-- Settles O60: by induction on the schedule, each event leaving a halted machine halted. -/
theorem haltedIsTerminal : Obligations.HaltedIsTerminal := by
  intro es
  induction es with
  | nil => exact fun s _ _ => ⟨s, [], rfl, rfl, .inl rfl⟩
  | cons e es ih =>
    intro s h hinit
    obtain ⟨hne, hrest⟩ := not_or.mp (List.mem_cons.not.mp hinit)
    obtain ⟨t, out, ht, htsame, htmem⟩ := handle_of_halted h (Ne.symm hne)
    obtain ⟨u, more, hu, husame, humem⟩ := ih t (htsame.run.trans h) hrest
    refine ⟨u, _, runEvents_cons_next ht hu, htsame.trans husame, ?_⟩
    rcases htmem with htmem | ⟨rom, rfl⟩
    · rcases humem with humem | ⟨rom, hrom⟩
      · exact .inl (humem.trans htmem)
      · exact .inr ⟨rom, List.mem_cons_of_mem e hrom⟩
    · exact .inr ⟨rom, List.mem_cons_self⟩

end Sys2Proof.Proofs
end
